-- ==== Sys2Proof/Word.lean ====
section
/-! DEFINITION. The byte of both framed links, and "one of each of the four stations". -/

namespace Sys2Proof

/-- One byte of a frame, record or report (11_formats_and_signals.md). -/
abbrev Byte := BitVec 8

/-- Stations are numbered 0 to 3 (00_scope.md section 3-4). -/
abbrev StationId := Fin 4

/-- One thing for each of the four stations. -/
structure Four (α : Type) where
  s0 : α
  s1 : α
  s2 : α
  s3 : α
  deriving DecidableEq, Repr

namespace Four

variable {α β : Type}

/-- The same thing for every station. -/
def all4 (a : α) : Four α := ⟨a, a, a, a⟩

def get (f : Four α) (i : StationId) : α :=
  match i with
  | 0 => f.s0
  | 1 => f.s1
  | 2 => f.s2
  | 3 => f.s3

def set (f : Four α) (i : StationId) (a : α) : Four α :=
  match i with
  | 0 => { f with s0 := a }
  | 1 => { f with s1 := a }
  | 2 => { f with s2 := a }
  | 3 => { f with s3 := a }

def map (g : α → β) (f : Four α) : Four β := ⟨g f.s0, g f.s1, g f.s2, g f.s3⟩

/-- In station order 0 to 3. -/
def toList (f : Four α) : List α := [f.s0, f.s1, f.s2, f.s3]

end Four

/-- The four stations in station order. -/
def allStations : List StationId := [0, 1, 2, 3]

end Sys2Proof
end

