-- ==== Sys2Proof/Syntax.lean ====
section
/-! DEFINITION. The commands of the block: one constructor for each row of spec/opcode_table.json. -/

namespace Sys2Proof

/-- The three plant inputs (R139). -/
inductive PlantInput where
  | halt
  | airLow
  | key
  deriving DecidableEq, Repr

/-- The rows of spec/opcode_table.json, in its order. An operand is what comes from outside at that event. The
requests carry none: a request row is the serving of the frame at the head of the receive buffer, and its arguments
stand in that frame's payload (R153, log 1). -/
inductive Instr where
  /-- ENCODER_COUNT (R1): the new states of the encoder lines; `chainReturn` is what comes back on the chain return
  in the refresh that a slice crossing makes (R127, log 27). -/
  | encoderCount (a b : Bool) (chainReturn : List Bool)
  /-- SPEED_GATE_EXPIRY (R10). -/
  | speedGateExpiry
  /-- BEACON (R12). -/
  | beacon
  /-- DETECTION_BYTE (R17). -/
  | detectionByte (value : Byte)
  /-- DETECTION_GAP_TIMEOUT (R18). -/
  | detectionGapTimeout
  /-- TAKE (R23). -/
  | take
  /-- LOAD_END (R170). -/
  | loadEnd
  /-- CENSUS_END (R129): for each trial exchange, after how many returned states the marker came back whole, and
  none where it was lost or altered. -/
  | censusEnd (trials : List (Option Nat))
  /-- REFRESH_TIMER_EXPIRY (R126), with the states that come back on the chain return. -/
  | refreshTimerExpiry (chainReturn : List Bool)
  /-- SETTLE_EXPIRY (R113). -/
  | settleExpiry (station : StationId)
  /-- PLANT_INPUT_LEVEL_CHANGE (R139): `current` says whether current flows in the input's isolator (chapter 11,
  section 8). -/
  | plantInputLevelChange (input : PlantInput) (current : Bool)
  /-- HALT_ASSERTION (R140). -/
  | haltAssertion
  /-- HALT_RELEASE (R141). -/
  | haltRelease
  /-- AIR_LOW_CHANGE (R142). -/
  | airLowChange
  /-- KEY_CHANGE (R142). -/
  | keyChange
  /-- CONTROL_BYTE (R150): the byte and its stop bit (low is a byte error, R149). -/
  | controlByte (value : Byte) (stopBit : Bool)
  /-- CONTROL_GAP_TIMEOUT (R151). -/
  | controlGapTimeout
  /-- TRANSMIT_COMPLETE (R156). -/
  | transmitComplete
  /-- UNKNOWN_KIND (R154). -/
  | unknownKind
  /-- IDENTIFY (R157). -/
  | identify
  /-- STATUS (R158). -/
  | status
  /-- LINE_RUN (R136). -/
  | lineRun
  /-- LINE_STANDBY_DRAIN (R137). -/
  | lineStandbyDrain
  /-- LINE_STANDBY_FLUSH (R138). -/
  | lineStandbyFlush
  /-- LINE_SET (R6). -/
  | lineSet
  /-- STATION_SET (R110, R111). -/
  | stationSet
  /-- ARM (R112). -/
  | arm
  /-- DISARM (R114). -/
  | disarm
  /-- FLOOR (R68). -/
  | floor
  /-- CLEAR_CHANNEL (R122). -/
  | clearChannel
  /-- SELECT (R159). -/
  | select
  /-- WRITE (R162). -/
  | write
  /-- READ (R161). -/
  | read
  /-- RELEASE_HOLDS (R61). -/
  | releaseHolds
  /-- RANK_RESET (R64). -/
  | rankReset
  /-- PARTITION (R71). -/
  | partition
  /-- CANCEL (R46). -/
  | cancel
  /-- AMEND (R48). -/
  | amend
  /-- TRACK_QUERY (R51). -/
  | trackQuery
  /-- LIST_READ (R108). -/
  | listRead
  /-- TALLY_READ (R167). -/
  | tallyRead
  /-- SAVE (R171). -/
  | save
  /-- SAVE_END (R172): whether the written image agrees with the copy (log 28). -/
  | saveEnd (agrees : Bool)
  /-- RESTORE (R173). -/
  | restore
  /-- RESTORE_END (R173). -/
  | restoreEnd
  /-- LOCK_OPEN (R175). -/
  | lockOpen
  /-- LOCK_KEYED (R175). -/
  | lockKeyed
  /-- LOCK_SEALED (R175). -/
  | lockSealed
  /-- PURGE_START (R177). -/
  | purgeStart
  /-- PURGE_SUSPEND (R178). -/
  | purgeSuspend
  /-- PURGE_RESUME (R178). -/
  | purgeResume
  /-- PURGE_ABORT (R178). -/
  | purgeAbort
  /-- PURGE_SHOT_END (R177). -/
  | purgeShotEnd
  /-- PURGE_GAP_END (R177). -/
  | purgeGapEnd
  /-- CALIBRATE (R179). -/
  | calibrate
  /-- CLEAR_FAULT (R144). -/
  | clearFault
  /-- RESTART (R147). -/
  | restart
  /-- POWER_ON (R145). -/
  | powerOn
  /-- SUPPLY_DIP (R145). -/
  | supplyDip
  /-- RESET_LINE_ASSERT (R145). -/
  | resetLineAssert
  /-- RESET_LINE_RELEASE (R145). -/
  | resetLineRelease
  /-- RESET_END (R145). -/
  | resetEnd
  /-- SUPPLY_RISES_ABOVE_RESET_THRESHOLD (R145). -/
  | supplyRisesAboveResetThreshold
  deriving DecidableEq, Repr

end Sys2Proof
end

