-- ==== Sys2Proof/Config.lean ====
section
/-! DEFINITION. The constants the spec fixes for every JT-460, and the free values: constants with no body, of
which nothing can be proved but that they exist. -/

namespace Sys2Proof.Config

/-! ### Capacities -/

/-- The intake queue never holds more than 64 records (R21). -/
def intakeCapacity : Nat := 64
/-- READY is deasserted at an accepted frame from this occupancy up (R22). -/
def readyHigh : Nat := 56
/-- READY is asserted at a take down to this occupancy (R22). -/
def readyLow : Nat := 48
/-- The receive buffer holds 4 frames (R152). -/
def bufferCapacity : Nat := 4
/-- The report queue holds 32 reports (R164). -/
def reportCapacity : Nat := 32
/-- The largest payload of a control frame (R150). -/
def largestPayload : Nat := 250
/-- An entry carries at most 4 tags (R89, R92). -/
def maxTags : Nat := 4
/-- A tally stays at this value until it is cleared (00_scope.md section 3-5). -/
def tallyMax : Nat := 4294967295

/-! ### Times in microseconds -/

/-- The speed gate (R10). -/
def gatePeriod : Nat := 8192
/-- The position beacon (R12). -/
def beaconPeriod : Nat := 1000
/-- The longest silence inside a detection frame (R18). -/
def detectionGap : Nat := 200
/-- The least time between two takes (R23). -/
def takePeriod : Nat := 20
/-- The refresh timer (R126). -/
def refreshPeriod : Nat := 100
/-- How long a level of a plant input must stand (R139). -/
def inputFilter : Nat := 1000
/-- The longest silence inside a control frame (R151). -/
def controlGap : Nat := 2000
/-- One byte on the control link (R149). -/
def controlByteTime : Nat := 10
/-- The least length of a reset by the reset line or by RESTART (R145). -/
def resetMinimum : Nat := 100
/-- How long the supply must stand above the reset threshold (R145). -/
def supplyStand : Nat := 10000
/-- The least time between two calibration shots' starts (R179). -/
def calibrationSpacing : Nat := 100000

/-! ### Ranges of counters the controller "is not built to pass" -/

/-- N covers −(2^48 − 1) to 2^48 − 1 (R1). -/
def netMax : Int := 281474976710655
/-- The time base is held to 64 bits (R102). -/
def clockMax : Nat := 18446744073709551615

/-! ### Free values

Each is a constant without a body, applied to what it depends on: every statement about one holds whatever it is. -/

/-- N after a count that would pass either end of its range (R1 gives no value): the result is
`netBeyondRange sum − (2^48 − 1)`, some value of N's range (log 10). -/
opaque netBeyondRange : Int → Fin 562949953421311
/-- The time base after the microsecond that would pass its 64 bits (R102 gives no value; log 11). -/
opaque clockBeyondRange : Nat → Fin 18446744073709551616
/-- What a field of the given number of bytes carries for a value too wide for it (log 12). -/
opaque overwide : Nat → Nat → Nat
/-- The hardware revision is `hardwareRevision + 1`, 1 to 255 (R157), fixed in the part (log 13). -/
opaque hardwareRevision : Fin 255
/-- The commit slice TRACK QUERY shows for a slot that was created FINAL: R36 computes one for WAITING slots only
(log 14). Its argument is what R36's formula would give. -/
opaque finalSlotCommitSlice : Int → Int

end Sys2Proof.Config
end

