-- ==== Sys2Proof/Machine/Types.lean ====
section
/-! DEFINITION. The names and records of the manual: states, outcomes, codes, table entries, particle records,
firing entries, reports. Plain data. -/

namespace Sys2Proof.Machine

/-! ### Line control (chapter 8) -/

/-- The six line states (R133). -/
inductive LineState where
  | startup
  | standby
  | run
  | draining
  | halt
  | fault
  deriving DecidableEq, Repr

/-- The causes of a change of line state (R133). -/
inductive LineCause where
  | start
  | lineRun
  | drain
  | drainDone
  | flush
  | halt
  | haltRelease
  | overspeed
  | reverse
  | chain
  | clearFault
  deriving DecidableEq, Repr

/-- The fault cause line control holds (R143). -/
inductive FaultCause where
  | none
  | overspeed
  | reverse
  | chain
  deriving DecidableEq, Repr

/-- The four causes of a reset (R145). -/
inductive ResetCause where
  | powerOn
  | supplyDip
  | resetLine
  | restartRequest
  deriving DecidableEq, Repr

/-- The reset cause record (R146). `none` is UNKNOWN. -/
structure ResetRecord where
  cause : ResetCause
  lineBefore : Option LineState
  saveInFlight : Option Bool
  deriving DecidableEq, Repr

/-- One plant input (R139): whether the level now at the input asserts it, the taken state, and, while the two
differ, when the level last changed. -/
structure PlantFilter where
  level : Bool
  taken : Bool
  since : Option Nat
  deriving DecidableEq, Repr

/-! ### Stations (chapter 7) -/

inductive StationKind where
  | none
  | nozzle
  | coil
  | flap
  deriving DecidableEq, Repr

inductive StationState where
  | disarmed
  | arming
  | armed
  | faulted
  deriving DecidableEq, Repr

/-- The causes of a change of station state (R116). -/
inductive StationCause where
  | arm
  | settle
  | disarm
  | stationFault
  | halt
  | fault
  | clearChannel
  deriving DecidableEq, Repr

/-- The cause of a channel's fault (R118, R119). -/
inductive ChannelFault where
  | noConfirm
  | stuck
  deriving DecidableEq, Repr

/-- The twelve station settings (chapter 7 section 1-2); times in microseconds but for the settle time, in ms. -/
structure StationSettings where
  kind : StationKind
  firstOutput : Nat
  channels : Nat
  leadDistance : Nat
  latency : Nat
  horizon : Nat
  maxOn : Nat
  maxOnTime : Nat
  minGap : Nat
  concurrency : Nat
  confirmWindow : Nat
  settleTime : Nat
  deriving DecidableEq, Repr

/-- One channel (chapter 7 section 3): OK where `fault` is none; the confirm timer's start while it runs (R117); the
stuck counter and the time of the latest refresh that sent the output on since the station became ARMED (R119). -/
structure Channel where
  fault : Option ChannelFault
  confirm : Option Nat
  stuck : Nat
  lastOn : Option Nat
  deriving DecidableEq, Repr

/-- What station control keeps for a station (R131): `settle` is the settle timer's start while it runs; `channels`
holds 64, of which the first N_s are the station's. -/
structure Station where
  state : StationState
  enable : Bool
  settle : Option Nat
  channels : List Channel
  noConfirm : Nat
  stuck : Nat
  cut : Nat
  deriving DecidableEq, Repr

/-! ### Routes, patterns, partitions (chapter 4) -/

inductive Delivery where
  | fixed
  | leastLoaded
  | all
  deriving DecidableEq, Repr

inductive Action where
  | eject
  | shield
  deriving DecidableEq, Repr

/-- A route entry: the eight fields of chapter 4 section 1-1. -/
structure RouteEntry where
  stations : Four Bool
  delivery : Delivery
  action : Action
  priority : Nat
  pattern : Nat
  minConfidence : Nat
  report : Bool
  hold : Bool
  deriving DecidableEq, Repr

/-- A pattern: the five fields of chapter 4 section 4-1. -/
structure Pattern where
  lead : Nat
  trail : Nat
  widen : Nat
  minOn : Nat
  maxOn : Nat
  deriving DecidableEq, Repr

inductive Partition where
  | p0
  | p1
  | p2
  | p3
  deriving DecidableEq, Repr

/-- The floor and the low-air floor of a station (R68). -/
structure Floors where
  floor : Nat
  lowAir : Nat
  deriving DecidableEq, Repr

/-! ### Settings store (chapter 10) -/

inductive LockMode where
  | opened
  | keyed
  | sealed
  deriving DecidableEq, Repr

/-- The working settings, and the contents of the stored image (R169). `patterns` are the RAM patterns from code 8. -/
structure Settings where
  sliceLength : Nat
  reverseLimit : Nat
  staleLimit : Nat
  stations : Four StationSettings
  routes : List RouteEntry
  patterns : List Pattern
  partition : Partition
  floors : Four Floors
  defaultLock : LockMode
  deriving DecidableEq, Repr

/-- The stored image: `sound` says whether its check value agrees with its contents (R170, log 8). -/
structure StoredImage where
  sound : Bool
  contents : Settings
  deriving DecidableEq, Repr

/-- What the settings store is doing (R170); a SAVE writes from the copy it took (R171). -/
inductive StoreActivity where
  | idle
  | saving (copy : Settings)
  | restoring
  deriving DecidableEq, Repr

/-- The settings store but for the working settings. -/
structure SettingsStore where
  image : StoredImage
  activity : StoreActivity
  /-- The load of R170 is in progress. -/
  loading : Bool
  /-- The lock mode in force (R175). -/
  lock : LockMode
  /-- The retained copy of the mode (R176). -/
  lockCopy : LockMode
  deriving DecidableEq, Repr

/-! ### Detection intake (chapter 2) -/

/-- A detection record (chapter 2 section 1-1). -/
structure DetectionRecord where
  tag : Nat
  stamp : Nat
  confidence : Nat
  length : Nat
  cls : Nat
  firstLane : Nat
  lastLane : Nat
  deriving DecidableEq, Repr

/-- A link receiver (R17, R150): in a frame it holds the bytes after the start byte and when the last came. -/
inductive Receiver where
  | seeking
  | inFrame (bytes : List Byte) (last : Nat)
  deriving DecidableEq, Repr

/-- The twelve intake tallies, in the order of R32. -/
structure IntakeTallies where
  received : Nat
  queueFull : Nat
  badFrame : Nat
  notRunning : Nat
  invalid : Nat
  stale : Nat
  held : Nat
  passed : Nat
  unsure : Nat
  duplicate : Nat
  tableFull : Nat
  admitted : Nat
  deriving DecidableEq, Repr

/-- The nine dispositions of a take (R23). -/
inductive Disposition where
  | notRunning
  | invalid
  | stale
  | held
  | passed
  | unsure
  | duplicate
  | tableFull
  | admitted
  deriving DecidableEq, Repr

structure IntakeUnit where
  receiver : Receiver
  queue : List DetectionRecord
  ready : Bool
  lastTake : Option Nat
  tallies : IntakeTallies
  deriving DecidableEq, Repr

/-! ### Position unit (chapter 1) -/

structure PositionUnit where
  /-- The net count N (R1). -/
  n : Int
  /-- The scan position X (R3). -/
  x : Nat
  /-- The scan slice c (R4, R5). -/
  slice : Nat
  reverseFlag : Bool
  overspeed : Bool
  /-- The speed V (R10). -/
  v : Nat
  /-- When the gate last restarted, and N then (R10). -/
  gateStart : Nat
  gateNet : Int
  /-- When the beacon timer last restarted; none while it is stopped (R13). -/
  beaconStart : Option Nat
  /-- The last beacon frame sent on the detection link (R12). -/
  beacon : Option (List Byte)
  deriving DecidableEq, Repr

/-! ### Track table (chapter 3) -/

/-- The thirteen final outcomes (chapter 3 section 2-3). -/
inductive SlotOutcome where
  | ejected
  | shielded
  | missed
  | refused
  | displaced
  | floored
  | airLimit
  | listFull
  | masked
  | notChosen
  | cancelled
  | channelFault
  | aborted
  deriving DecidableEq, Repr

/-- The five flags of a slot (R41). -/
structure SlotFlags where
  late : Bool
  truncated : Bool
  merged : Bool
  cut : Bool
  degraded : Bool
  deriving DecidableEq, Repr

/-- The slot states (chapter 3 section 2-2); FINAL carries its outcome. -/
inductive SlotState where
  | waiting
  | committed
  | active
  | final (outcome : SlotOutcome)
  deriving DecidableEq, Repr

/-- The items a slot has from a successful commit on (chapter 3 section 2-1). -/
structure Figures where
  onSlice : Nat
  offSlice : Nat
  firstChannel : Nat
  lastChannel : Nat
  entries : Nat
  completions : Nat
  deriving DecidableEq, Repr

structure Slot where
  state : SlotState
  commitSlice : Int
  figures : Option Figures
  flags : SlotFlags
  deriving DecidableEq, Repr

/-- A particle record (chapter 3 section 1-2). -/
structure ParticleRecord where
  tag : Nat
  cls : Nat
  position : Nat
  length : Nat
  firstLane : Nat
  lastLane : Nat
  confidence : Nat
  action : Action
  priority : Nat
  pattern : Nat
  delivery : Delivery
  report : Bool
  slots : Four (Option Slot)
  deriving DecidableEq, Repr

/-- The track table and the outcome tallies of each station, in outcome code order (R35, R44). -/
structure TrackUnit where
  table : List ParticleRecord
  outcomes : Four (List Nat)
  deriving DecidableEq, Repr

/-! ### Firing lists (chapter 6) -/

/-- COMMITTED, or ACTIVE with the start time and the confirmed flag (chapter 6 section 1-2). -/
inductive EntryState where
  | committed
  | active (start : Nat) (confirmed : Bool)
  deriving DecidableEq, Repr

structure Entry where
  channel : Nat
  onSlice : Nat
  offSlice : Nat
  kind : Action
  priority : Nat
  tags : List Nat
  state : EntryState
  deriving DecidableEq, Repr

/-- What a commit that passed checks 1 to 4 hands to checks 5 to 8 (R78, R87). -/
structure Plan where
  onSlice : Nat
  offSlice : Nat
  firstChannel : Nat
  lastChannel : Nat
  flags : SlotFlags
  newcomers : List Entry
  deriving DecidableEq, Repr

/-- A newcomer entry with its partners, where its merge is feasible, and its opponents (R92, R93). -/
structure Bid where
  entry : Entry
  partners : List Entry
  opponents : List Entry
  deriving DecidableEq, Repr

/-- A newcomer entry as it would be written, and whether it joined a partner (R96). -/
structure Written where
  entry : Entry
  joined : Bool
  deriving DecidableEq, Repr

/-- What checks 5 to 7 pass on to the apply step (R99): the list as it would stand, the displaced tags and the
newcomer entries as written. -/
structure Settlement where
  list : List Entry
  displaced : List Nat
  written : List Written
  deriving DecidableEq, Repr

/-! ### Output chain unit (chapter 7 section 5) -/

structure ChainUnit where
  outputs : List Bool
  feedback : List Bool
  boards : Nat
  censusOk : Bool
  /-- A census is in progress (R129). -/
  census : Bool
  chainError : Bool
  /-- When the refresh timer last restarted; none while it is stopped (R126). -/
  refreshStart : Option Nat
  deriving DecidableEq, Repr

/-! ### Maintenance sequencer (chapter 10) -/

/-- Where the channel in hand of a purge stands: waiting for the refresh that starts its shot, in its shot, or in
its gap, with the start of either (R177). -/
inductive PurgePhase where
  | waiting
  | shot (start : Nat)
  | gap (start : Nat)
  deriving DecidableEq, Repr

structure Purge where
  station : StationId
  onTime : Nat
  gap : Nat
  cycles : Nat
  cycle : Nat
  channel : Nat
  phase : PurgePhase
  deriving DecidableEq, Repr

/-- A calibration (R179): the delays recorded so far, the start of the latest shot, and the start of the shot in
progress. -/
structure Calibration where
  station : StationId
  channel : Nat
  delays : List Nat
  lastStart : Option Nat
  shot : Option Nat
  deriving DecidableEq, Repr

inductive Sequencer where
  | idle
  | purging (p : Purge)
  | suspended (p : Purge)
  | calibrating (c : Calibration)
  deriving DecidableEq, Repr

/-! ### Control link (chapter 9) -/

/-- A good frame waiting in the receive buffer (R152). -/
structure Frame where
  kind : Byte
  payload : List Byte
  deriving DecidableEq, Repr

/-- The status codes (R155). -/
inductive Status where
  | ok
  | held
  | tooLate
  | busy
  | locked
  | wrongState
  | badArg
  | notFound
  | noBoard
  | notReady
  | unknownKind
  deriving DecidableEq, Repr

/-- A reply's status and the reply items after it (R155). -/
structure Reply where
  status : Status
  items : List Byte
  deriving DecidableEq, Repr

/-- The work a DONE report tells of, and its result (chapter 11 section 5). -/
inductive Work where
  | save
  | restore
  | purge
  | calibrate
  deriving DecidableEq, Repr

inductive DoneResult where
  | ok
  | writeFail
  | checkFail
  | abandoned
  | aborted
  | failed
  | outOfRange
  deriving DecidableEq, Repr

/-- What a report carries (chapter 9 section 4-1, chapter 11 section 5). -/
inductive ReportBody where
  | start (cause : ResetCause) (settingsLost : Bool) (boards : Nat) (censusOk : Bool) (partition : Partition)
  | result (tag cls : Nat) (slots : Four (Option (SlotOutcome × SlotFlags)))
  | lineNotice (left entered : LineState) (cause : LineCause) (fault : FaultCause)
  | stationNotice (station : StationId) (left entered : StationState) (cause : StationCause) (holds : Nat)
  | channelNotice (station : StationId) (channel : Nat) (cause : ChannelFault)
  | done (work : Work) (ending : DoneResult) (station : Option StationId) (count : Option Nat) (latency : Nat)
  deriving DecidableEq, Repr

/-- A report with its number (R163). -/
structure Report where
  number : Nat
  body : ReportBody
  deriving DecidableEq, Repr

/-- A reply that has taken its place in the send order: `ahead` reports stand before it (R156); `restart` marks the
reply to an accepted RESTART (R147). -/
structure WaitingReply where
  bytes : List Byte
  ahead : Nat
  restart : Bool
  deriving DecidableEq, Repr

inductive SendRole where
  | reply (restart : Bool)
  | report
  deriving DecidableEq, Repr

/-- The frame being sent (R156), and when its sending started. -/
structure Sending where
  role : SendRole
  bytes : List Byte
  start : Nat
  deriving DecidableEq, Repr

inductive TableName where
  | route
  | pattern
  deriving DecidableEq, Repr

inductive PointerStep where
  | hold
  | up
  | down
  deriving DecidableEq, Repr

/-- The table access pointer (R159). -/
structure Pointer where
  table : TableName
  index : Nat
  step : PointerStep
  deriving DecidableEq, Repr

/-- The twelve link tallies, in the order of R166. -/
structure LinkTallies where
  frames : Nat
  bufferFull : Nat
  lengthError : Nat
  byteError : Nat
  gapError : Nat
  checkError : Nat
  unknown : Nat
  replies : Nat
  reports : Nat
  resultDropped : Nat
  resultDisplaced : Nat
  reportDropped : Nat
  deriving DecidableEq, Repr

structure MessageUnit where
  receiver : Receiver
  buffer : List Frame
  /-- The kind of the request in hand (R153). -/
  inHand : Option Byte
  /-- The reply that is fixed and waits to be sent (R156). -/
  reply : Option WaitingReply
  sending : Option Sending
  reports : List Report
  nextReport : Nat
  pointer : Pointer
  tallies : LinkTallies
  deriving DecidableEq, Repr

/-! ### Line control and resets (chapter 8) -/

structure LineControl where
  state : LineState
  fault : FaultCause
  settingsLost : Bool
  halt : PlantFilter
  airLow : PlantFilter
  key : PlantFilter
  record : ResetRecord
  /-- HALT has been asserted during the census that CLEAR FAULT ordered (R144). -/
  haltInCensus : Bool
  deriving DecidableEq, Repr

/-- A reset in progress (R145): when it began, which causes have arrived, and since when the supply has stood above
the reset threshold. -/
structure ResetProgress where
  began : Nat
  bySupply : Bool
  byLine : Bool
  byRestart : Bool
  supplyAbove : Option Nat
  deriving DecidableEq, Repr

end Sys2Proof.Machine
end

