-- ==== Sys2Proof/Machine/Defaults.lean ====
section
/-! DEFINITION. The values the manual gives by table: partitions, ROM patterns, factory defaults, and each block's
values after every reset. -/

namespace Sys2Proof.Machine

/-! ### Partitions (R70) -/

/-- The track-record capacity of a partition (R70). -/
def Partition.trackCapacity (p : Partition) : Nat :=
  match p with
  | .p0 => 1024
  | .p1 => 2048
  | .p2 => 512
  | .p3 => 1536

/-- The entries per station firing list (R70, R88). -/
def Partition.listCapacity (p : Partition) : Nat :=
  match p with
  | .p0 => 512
  | .p1 => 256
  | .p2 => 768
  | .p3 => 384

/-- The number k of RAM patterns (R65, R70). -/
def Partition.ramPatterns (p : Partition) : Nat :=
  match p with
  | .p0 => 24
  | .p1 => 8
  | .p2 => 24
  | .p3 => 16

/-! ### Patterns (R65) -/

/-- Pattern 0, which also opens every new RAM code (R72). -/
def pattern0 : Pattern := ⟨0, 0, 0, 1, 4095⟩

/-- The ROM patterns 0 to 7 (chapter 4 section 4-1). -/
def romPatterns : List Pattern :=
  [pattern0, ⟨8, 8, 0, 1, 4095⟩, ⟨16, 24, 1, 2, 4095⟩, ⟨32, 32, 1, 2, 64⟩,
   ⟨0, 0, 2, 1, 32⟩, ⟨24, 48, 0, 4, 4095⟩, ⟨64, 64, 2, 4, 4095⟩, ⟨0, 0, 3, 8, 8⟩]

/-! ### Factory defaults (R174) -/

/-- The initial values of the station settings (chapter 7 section 1-2). -/
def StationSettings.initial : StationSettings :=
  { kind := .none, firstOutput := 0, channels := 1, leadDistance := 0, latency := 0, horizon := 32, maxOn := 64,
    maxOnTime := 20000, minGap := 2, concurrency := 1, confirmWindow := 5000, settleTime := 50 }

/-- The initial values of a route entry (chapter 4 section 1-1). -/
def RouteEntry.initial : RouteEntry :=
  { stations := Four.all4 false, delivery := .fixed, action := .eject, priority := 0, pattern := 0,
    minConfidence := 0, report := false, hold := false }

/-- The factory defaults (R174). -/
def Settings.factory : Settings :=
  { sliceLength := 8, reverseLimit := 64, staleLimit := 200000,
    stations := Four.all4 StationSettings.initial,
    routes := List.replicate 64 RouteEntry.initial,
    patterns := List.replicate 24 pattern0,
    partition := .p0,
    floors := Four.all4 ⟨0, 15⟩,
    defaultLock := .opened }

/-! ### Values after every reset -/

/-- R16. The gate timer is restarted when the reset ends, at which the time base is 0 (R10, R102). -/
def PositionUnit.afterReset : PositionUnit :=
  { n := 0, x := 0, slice := 0, reverseFlag := false, overspeed := false, v := 0, gateStart := 0, gateNet := 0,
    beaconStart := none, beacon := none }

def IntakeTallies.zero : IntakeTallies := ⟨0, 0, 0, 0, 0, 0, 0, 0, 0, 0, 0, 0⟩

/-- R34. -/
def IntakeUnit.afterReset : IntakeUnit :=
  { receiver := .seeking, queue := [], ready := false, lastTake := none, tallies := IntakeTallies.zero }

/-- Thirteen outcome tallies at 0 (R44). -/
def zeroOutcomes : List Nat := List.replicate 13 0

/-- R35, R44. -/
def TrackUnit.afterReset : TrackUnit := { table := [], outcomes := Four.all4 zeroOutcomes }

/-- A channel that is OK with its timer idle and its counter 0 (R131). -/
def Channel.ok : Channel := { fault := none, confirm := none, stuck := 0, lastOn := none }

/-- R131. -/
def Station.afterReset : Station :=
  { state := .disarmed, enable := false, settle := none, channels := List.replicate 64 Channel.ok,
    noConfirm := 0, stuck := 0, cut := 0 }

/-- R131. -/
def ChainUnit.afterReset : ChainUnit :=
  { outputs := List.replicate 128 false, feedback := List.replicate 128 false, boards := 0, censusOk := false,
    census := false, chainError := false, refreshStart := none }

def LinkTallies.zero : LinkTallies := ⟨0, 0, 0, 0, 0, 0, 0, 0, 0, 0, 0, 0⟩

/-- R168. -/
def MessageUnit.afterReset : MessageUnit :=
  { receiver := .seeking, buffer := [], inHand := none, reply := none, sending := none, reports := [],
    nextReport := 0, pointer := ⟨.route, 0, .up⟩, tallies := LinkTallies.zero }

/-- Ranks are the station numbers after every reset (R64). -/
def initialRanks : Four Nat := ⟨0, 1, 2, 3⟩

end Sys2Proof.Machine
end

