-- ==== Sys2Proof/Machine/State.lean ====
section
/-! DEFINITION. The whole state of the controller as plain data, the queue of waiting commands, and the machine
right after reset. -/

namespace Sys2Proof.Machine

/-- The state of the eleven blocks (00_scope.md section 2-1) with the pins they are wired to. -/
structure Block where
  /-- The microsecond time base (R102). -/
  clock : Nat
  /-- The states of encoder lines A and B (R1, R2). -/
  encA : Bool
  encB : Bool
  /-- The reset line is asserted (R145). -/
  resetLine : Bool
  /-- The reset in progress, if any (R145). -/
  resetting : Option ResetProgress
  /-- The position unit. -/
  pos : PositionUnit
  /-- The intake unit. -/
  intake : IntakeUnit
  /-- The track table with its outcome tallies. -/
  track : TrackUnit
  /-- The four firing lists (R88). -/
  lists : Four (List Entry)
  /-- The four station ranks (R63). -/
  ranks : Four Nat
  /-- The working settings, the route table and RAM patterns among them (R169). -/
  settings : Settings
  /-- Station control. -/
  stations : Four Station
  /-- The output chain unit. -/
  chain : ChainUnit
  /-- Line control. -/
  line : LineControl
  /-- The message unit. -/
  msg : MessageUnit
  /-- The settings store. -/
  store : SettingsStore
  /-- The maintenance sequencer. -/
  maint : Sequencer
  deriving DecidableEq, Repr

/-- The controller and the queue of the commands that wait for it, the first at the front. -/
structure State extends Block where
  pending : List Instr
  deriving DecidableEq, Repr

/-- Nothing in the manual stops the controller: every command answers a next state, so there is no fault. (No one
raises it; safe.) -/
inductive Fault where
  deriving DecidableEq, Repr

/-- Why a command has no meaning. -/
inductive Refusal where
  /-- The command is not modelled. No arm of exec raises it; it would be safe, for the model stops. -/
  | notModelled (mnemonic : String)
  deriving DecidableEq, Repr

/-- The controller right after the end of a POWER_ON reset: every block at the values the manual gives for every
reset, STARTUP with the load of the stored image in progress (R134, R148). What stands outside and the image of a new
part are the model's choices (logs 6, 7, 32). -/
def State.reset : State :=
  { clock := 0
    encA := false
    encB := false
    resetLine := false
    resetting := none
    pos := PositionUnit.afterReset
    intake := IntakeUnit.afterReset
    track := TrackUnit.afterReset
    lists := Four.all4 []
    ranks := initialRanks
    settings := Settings.factory
    stations := Four.all4 Station.afterReset
    chain := ChainUnit.afterReset
    line :=
      { state := .startup, fault := .none, settingsLost := false
        halt := ⟨false, false, none⟩, airLow := ⟨false, false, none⟩, key := ⟨false, false, none⟩
        record := ⟨.powerOn, none, none⟩, haltInCensus := false }
    msg := MessageUnit.afterReset
    store :=
      { image := ⟨false, Settings.factory⟩, activity := .idle, loading := true, lock := .opened
        lockCopy := .opened }
    maint := .idle
    pending := [] }

end Sys2Proof.Machine
end

