-- ==== Sys2Proof/Machine/Formats.lean ====
section
/-! DEFINITION. Chapter 11: byte order, the check value, code tables, and the layouts of everything the controller
sends. -/

namespace Sys2Proof.Machine

/-! ### Fields -/

/-- The low `k` bytes of a number, least significant first. -/
def leDigits (k n : Nat) : List Byte :=
  match k with
  | 0 => []
  | j + 1 => BitVec.ofNat 8 n :: leDigits j (n / 256)

/-- An unsigned field of `k` bytes, little-endian (chapter 11); what it carries for a value too wide for it is not
stated (log 12). -/
def le (k n : Nat) : List Byte :=
  leDigits k (if n < 256 ^ k then n else Config.overwide k n)

/-- A signed field of `k` bytes, two's complement (chapter 11). -/
def leSigned (k : Nat) (z : Int) : List Byte :=
  if -((256 : Int) ^ k) ≤ 2 * z ∧ 2 * z < (256 : Int) ^ k then leDigits k (z % (256 : Int) ^ k).toNat
  else leDigits k (Config.overwide k z.natAbs)

/-- A one-byte field. -/
def byte (n : Nat) : List Byte := le 1 n

/-- A flag: 0 off, 1 on (R182). -/
def flagCode (f : Bool) : Nat := if f then 1 else 0

/-- The number whose bits, from bit 0, are the given flags. -/
def bitsValue (l : List Bool) : Nat :=
  match l with
  | [] => 0
  | b :: rest => flagCode b + 2 * bitsValue rest

/-- States packed eight to a byte, the first in bit 0 (chapter 11 section 6). -/
def packBits (bytes : Nat) (l : List Bool) : List Byte :=
  match bytes with
  | 0 => []
  | k + 1 => BitVec.ofNat 8 (bitsValue (l.take 8)) :: packBits k (l.drop 8)

/-! ### Check value (R181) -/

/-- One bit of the CRC with generator 1021h. -/
def crcShift (c : BitVec 16) : BitVec 16 :=
  if c.msb then (c <<< 1) ^^^ 0x1021#16 else c <<< 1

/-- One byte, most significant bit first. -/
def crcByte (c : BitVec 16) (b : Byte) : BitVec 16 :=
  let d := c ^^^ ((b.setWidth 16) <<< 8)
  crcShift (crcShift (crcShift (crcShift (crcShift (crcShift (crcShift (crcShift d)))))))

/-- The check value of a run of bytes: the register starts at FFFFh, no final inversion (R181). -/
def crc16 (l : List Byte) : BitVec 16 := l.foldl crcByte 0xFFFF#16

/-- The check value as sent, low byte first (R181). -/
def crcBytes (l : List Byte) : List Byte := leDigits 2 (crc16 l).toNat

/-! ### Code tables (chapter 11 section 5) -/

def Status.code (x : Status) : Nat :=
  match x with
  | .ok => 0
  | .held => 1
  | .tooLate => 2
  | .busy => 3
  | .locked => 4
  | .wrongState => 5
  | .badArg => 6
  | .notFound => 7
  | .noBoard => 8
  | .notReady => 9
  | .unknownKind => 10

def LineState.code (x : LineState) : Nat :=
  match x with
  | .startup => 0
  | .standby => 1
  | .run => 2
  | .draining => 3
  | .halt => 4
  | .fault => 5

def LineCause.code (x : LineCause) : Nat :=
  match x with
  | .start => 0
  | .lineRun => 1
  | .drain => 2
  | .drainDone => 3
  | .flush => 4
  | .halt => 5
  | .haltRelease => 6
  | .overspeed => 7
  | .reverse => 8
  | .chain => 9
  | .clearFault => 10

def FaultCause.code (x : FaultCause) : Nat :=
  match x with
  | .none => 0
  | .overspeed => 1
  | .reverse => 2
  | .chain => 3

def StationKind.code (x : StationKind) : Nat :=
  match x with
  | .none => 0
  | .nozzle => 1
  | .coil => 2
  | .flap => 3

def StationState.code (x : StationState) : Nat :=
  match x with
  | .disarmed => 0
  | .arming => 1
  | .armed => 2
  | .faulted => 3

def StationCause.code (x : StationCause) : Nat :=
  match x with
  | .arm => 0
  | .settle => 1
  | .disarm => 2
  | .stationFault => 3
  | .halt => 4
  | .fault => 5
  | .clearChannel => 6

def ChannelFault.code (x : ChannelFault) : Nat :=
  match x with
  | .noConfirm => 1
  | .stuck => 2

def SlotOutcome.code (x : SlotOutcome) : Nat :=
  match x with
  | .ejected => 0
  | .shielded => 1
  | .missed => 2
  | .refused => 3
  | .displaced => 4
  | .floored => 5
  | .airLimit => 6
  | .listFull => 7
  | .masked => 8
  | .notChosen => 9
  | .cancelled => 10
  | .channelFault => 11
  | .aborted => 12

def SlotFlags.code (f : SlotFlags) : Nat := bitsValue [f.late, f.truncated, f.merged, f.cut, f.degraded]

def DoneResult.code (x : DoneResult) : Nat :=
  match x with
  | .ok => 0
  | .writeFail => 1
  | .checkFail => 2
  | .abandoned => 3
  | .aborted => 4
  | .failed => 5
  | .outOfRange => 6

def Work.code (x : Work) : Nat :=
  match x with
  | .save => 0
  | .restore => 1
  | .purge => 2
  | .calibrate => 3

def Delivery.code (x : Delivery) : Nat :=
  match x with
  | .fixed => 0
  | .leastLoaded => 1
  | .all => 2

def Action.code (x : Action) : Nat :=
  match x with
  | .eject => 0
  | .shield => 1

def LockMode.code (x : LockMode) : Nat :=
  match x with
  | .opened => 0
  | .keyed => 1
  | .sealed => 2

def ResetCause.code (x : ResetCause) : Nat :=
  match x with
  | .powerOn => 0
  | .supplyDip => 1
  | .resetLine => 2
  | .restartRequest => 3

def Partition.code (x : Partition) : Nat :=
  match x with
  | .p0 => 0
  | .p1 => 1
  | .p2 => 2
  | .p3 => 3

def TableName.code (x : TableName) : Nat :=
  match x with
  | .route => 0
  | .pattern => 1

def PointerStep.code (x : PointerStep) : Nat :=
  match x with
  | .hold => 0
  | .up => 1
  | .down => 2

def SlotState.code (x : SlotState) : Nat :=
  match x with
  | .waiting => 0
  | .committed => 1
  | .active => 2
  | .final _ => 3

/-- The AMEND dispositions; the others are given by no AMEND. -/
def Disposition.code (x : Disposition) : Nat :=
  match x with
  | .admitted => 0
  | .held => 1
  | .passed => 2
  | .unsure => 3
  | .notRunning | .invalid | .stale | .duplicate | .tableFull => 255

def StoreActivity.code (x : StoreActivity) : Nat :=
  match x with
  | .idle => 0
  | .saving _ => 1
  | .restoring => 2

def Sequencer.code (x : Sequencer) : Nat :=
  match x with
  | .idle => 0
  | .purging _ => 1
  | .suspended _ => 2
  | .calibrating _ => 3

/-! ### Frames -/

/-- The sync byte of the control link (chapter 11 section 3). -/
def syncByte : Byte := 0xC5#8

/-- The start byte of the detection link (chapter 11 section 2). -/
def startByte : Byte := 0xD3#8

/-- A control frame: sync, length, kind, payload, check value (chapter 11 section 3). -/
def controlFrame (kind : Byte) (payload : List Byte) : List Byte :=
  let covered := BitVec.ofNat 8 payload.length :: kind :: payload
  syncByte :: covered ++ crcBytes covered

/-- A reply's frame: the kind of its request, the status code, the reply items (R155). -/
def replyFrame (kind : Byte) (r : Reply) : List Byte :=
  controlFrame kind (byte r.status.code ++ r.items)

/-- The beacon: start byte, length 9, X, V, line state, check value (chapter 11 section 2). -/
def beaconFrame (x v : Nat) (line : LineState) : List Byte :=
  let covered := 9#8 :: (le 6 x ++ le 2 v ++ byte line.code)
  startByte :: covered ++ crcBytes covered

/-! ### Reports (chapter 11 section 5) -/

def ReportBody.kind (r : ReportBody) : Byte :=
  match r with
  | .start _ _ _ _ _ => 0xE0#8
  | .result _ _ _ => 0xE1#8
  | .lineNotice _ _ _ _ => 0xE2#8
  | .stationNotice _ _ _ _ _ => 0xE2#8
  | .channelNotice _ _ _ => 0xE2#8
  | .done _ _ _ _ _ => 0xE3#8

/-- One station's two bytes of a RESULT: an absent slot has outcome FFh and flags 0. -/
def resultSlotBytes (s : Option (SlotOutcome × SlotFlags)) : List Byte :=
  match s with
  | none => [0xFF#8, 0#8]
  | some (o, f) => byte o.code ++ byte f.code

/-- A report's payload after its number. Spare bytes are sent as 0 (R181). -/
def ReportBody.items (r : ReportBody) : List Byte :=
  match r with
  | .start cause lost boards ok part =>
    byte cause.code ++ byte (flagCode lost) ++ byte boards ++ byte (flagCode ok) ++ byte part.code
  | .result tag cls slots => le 2 tag ++ byte cls ++ slots.toList.flatMap resultSlotBytes
  | .lineNotice left entered cause fault =>
    byte 0 ++ byte left.code ++ byte entered.code ++ byte cause.code ++ byte fault.code ++ byte 0
  | .stationNotice st left entered cause holds =>
    byte 1 ++ byte st.val ++ byte left.code ++ byte entered.code ++ byte cause.code ++ byte holds
  | .channelNotice st ch cause => byte 2 ++ byte st.val ++ byte ch ++ byte cause.code ++ byte 0 ++ byte 0
  | .done work res st count latency =>
    byte work.code ++ byte res.code ++
      (match st with
       | none => [0xFF#8]
       | some st => byte st.val) ++
      (match count with
       | none => [0xFF#8]
       | some n => byte n) ++
      le 3 latency

/-- A report's frame. -/
def reportFrame (r : Report) : List Byte :=
  controlFrame r.body.kind (le 2 r.number ++ r.body.items)

/-! ### Table entries and the pointer (chapter 11 sections 3 and 4) -/

def pointerBytes (p : Pointer) : List Byte := byte p.table.code ++ byte p.index ++ byte p.step.code

def routeBytes (e : RouteEntry) : List Byte :=
  byte (bitsValue e.stations.toList + 16 * e.delivery.code + 64 * e.action.code + 128 * flagCode e.report) ++
    byte (e.priority + 16 * flagCode e.hold) ++ byte e.pattern ++ byte e.minConfidence

def patternBytes (p : Pattern) : List Byte :=
  byte p.lead ++ byte p.trail ++ byte p.widen ++ byte p.minOn ++ le 2 p.maxOn

/-! ### TRACK QUERY, LIST READ (chapter 11 section 3) -/

/-- One station's 26 bytes of a TRACK QUERY reply. -/
def slotBytes (s : Option Slot) : List Byte :=
  match s with
  | none => [0xFF#8] ++ byte 0 ++ List.replicate 22 0#8 ++ [0xFF#8] ++ byte 0
  | some sl =>
    byte sl.state.code ++
      (match sl.figures with
       | none => byte 0 ++ leSigned 6 sl.commitSlice ++ List.replicate 16 0#8
       | some g =>
         byte 1 ++ leSigned 6 sl.commitSlice ++ le 6 g.onSlice ++ le 6 g.offSlice ++ byte g.firstChannel ++
           byte g.lastChannel ++ byte g.entries ++ byte g.completions) ++
      (match sl.state with
       | .final o => byte o.code
       | .waiting | .committed | .active => [0xFF#8]) ++
      byte sl.flags.code

def recordBytes (r : ParticleRecord) : List Byte :=
  le 2 r.tag ++ byte r.cls ++ le 6 r.position ++ le 2 r.length ++ byte r.firstLane ++ byte r.lastLane ++
    byte r.confidence ++ byte (r.action.code + 2 * r.delivery.code + 8 * flagCode r.report) ++ byte r.priority ++
    byte r.pattern ++ r.slots.toList.flatMap slotBytes

/-- One entry's 28 bytes of a LIST READ reply, the age saturating (R108); for a COMMITTED or a SHIELD entry, which has
no confirmed flag, its bit is 0 (log 36). -/
def entryBytes (now : Nat) (e : Entry) : List Byte :=
  let stateBits :=
    match e.state with
    | .committed => 0
    | .active _ confirmed => 2 + 4 * flagCode (confirmed && e.kind == .eject)
  let age :=
    match e.state with
    | .committed => 0
    | .active start _ => min (now - start) 4294967295
  byte e.channel ++ le 6 e.onSlice ++ le 6 e.offSlice ++ byte (e.kind.code + stateBits) ++ byte e.priority ++
    byte e.tags.length ++ ((e.tags ++ List.replicate (4 - e.tags.length) 0).flatMap (le 2)) ++ le 4 age

/-! ### Tallies, in the order of R32 and R166 -/

def IntakeTallies.toList (t : IntakeTallies) : List Nat :=
  [t.received, t.queueFull, t.badFrame, t.notRunning, t.invalid, t.stale, t.held, t.passed, t.unsure, t.duplicate,
   t.tableFull, t.admitted]

def LinkTallies.toList (t : LinkTallies) : List Nat :=
  [t.frames, t.bufferFull, t.lengthError, t.byteError, t.gapError, t.checkError, t.unknown, t.replies, t.reports,
   t.resultDropped, t.resultDisplaced, t.reportDropped]

/-! ### STATUS (chapter 11 section 6) -/

/-- Backlash X − N (R7), computed from its two quantities; X is at least N. Past the 48 bits it is held to it is the exact
difference (log 39). -/
def PositionUnit.backlash (p : PositionUnit) : Nat := ((p.x : Int) - p.n).toNat

/-- UNKNOWN, or a code (chapter 11 section 5). -/
def unknownOr (c : Option Nat) : List Byte :=
  match c with
  | none => [0xFF#8]
  | some n => byte n

/-- The 93 bytes after the status code, all taken at one instant (R158). -/
def statusItems (b : Block) : List Byte :=
  leSigned 8 b.pos.n ++ le 6 b.pos.x ++ le 6 b.pos.slice ++ le 6 b.pos.backlash ++ le 2 b.pos.v ++
    byte b.intake.queue.length ++ le 2 b.track.table.length ++
    b.lists.toList.flatMap (fun l => le 2 l.length) ++ b.ranks.toList.flatMap byte ++
    byte b.settings.partition.code ++ b.stations.toList.flatMap (fun st => byte st.state.code) ++
    byte b.chain.boards ++ packBits 16 b.chain.outputs ++ packBits 16 b.chain.feedback ++
    byte b.line.state.code ++ byte b.line.fault.code ++
    byte b.line.record.cause.code ++ unknownOr (b.line.record.lineBefore.map LineState.code) ++
    unknownOr (b.line.record.saveInFlight.map flagCode) ++
    byte (bitsValue [b.pos.reverseFlag, b.pos.overspeed, b.intake.ready, b.chain.chainError, b.chain.censusOk,
      b.line.settingsLost, b.line.halt.taken, b.line.airLow.taken]) ++
    byte (flagCode b.line.key.taken + 2 * b.store.lock.code + 8 * b.store.activity.code + 32 * b.maint.code) ++
    byte b.msg.buffer.length ++ byte b.msg.reports.length ++ pointerBytes b.msg.pointer

end Sys2Proof.Machine
end

