-- ==== Sys2Proof/Machine/Operands.lean ====
section
/-! DEFINITION. Every form in which arguments reach the controller: fields of request payloads, coded fields, table
and settings entries, detection records (chapter 11). -/

namespace Sys2Proof.Machine

/-- The number little-endian bytes spell. -/
def leValue (l : List Byte) : Nat :=
  match l with
  | [] => 0
  | b :: rest => b.toNat + 256 * leValue rest

/-- The field of `size` bytes at offset `at`. -/
def field (l : List Byte) (start size : Nat) : Nat := leValue ((l.drop start).take size)

/-- Bits `low` to `low + width - 1` of a number. -/
def bitsAt (n low width : Nat) : Nat := n / 2 ^ low % 2 ^ width

/-! ### Coded fields (R182): none where the value names no code -/

def stationOf (n : Nat) : Option StationId := if h : n < 4 then some ⟨n, h⟩ else none

def flagOf (n : Nat) : Option Bool :=
  match n with
  | 0 => some false
  | 1 => some true
  | _ => none

def kindOf (n : Nat) : Option StationKind :=
  match n with
  | 0 => some .none
  | 1 => some .nozzle
  | 2 => some .coil
  | 3 => some .flap
  | _ => none

def deliveryOf (n : Nat) : Option Delivery :=
  match n with
  | 0 => some .fixed
  | 1 => some .leastLoaded
  | 2 => some .all
  | _ => none

def partitionOf (n : Nat) : Option Partition :=
  match n with
  | 0 => some .p0
  | 1 => some .p1
  | 2 => some .p2
  | 3 => some .p3
  | _ => none

def tableOf (n : Nat) : Option TableName :=
  match n with
  | 0 => some .route
  | 1 => some .pattern
  | _ => none

def stepOf (n : Nat) : Option PointerStep :=
  match n with
  | 0 => some .hold
  | 1 => some .up
  | 2 => some .down
  | _ => none

/-! ### Entries -/

/-- The size of one entry of a table (chapter 11 section 4). -/
def entrySize (t : TableName) : Nat :=
  match t with
  | .route => 4
  | .pattern => 6

/-- A payload cut into whole entries of the given size. -/
def entriesOf (size : Nat) (l : List Byte) : List (List Byte) :=
  (List.range (l.length / size)).map fun i => (l.drop (i * size)).take size

/-- A route entry; none where the delivery names no code (R182). Spare bits are ignored (R181). -/
def routeOf (l : List Byte) : Option RouteEntry :=
  let b0 := field l 0 1
  let b1 := field l 1 1
  (deliveryOf (bitsAt b0 4 2)).map fun d =>
    { stations := ⟨bitsAt b0 0 1 == 1, bitsAt b0 1 1 == 1, bitsAt b0 2 1 == 1, bitsAt b0 3 1 == 1⟩
      delivery := d
      action := if bitsAt b0 6 1 == 1 then .shield else .eject
      priority := bitsAt b1 0 4
      pattern := field l 2 1
      minConfidence := field l 3 1
      report := bitsAt b0 7 1 == 1
      hold := bitsAt b1 4 1 == 1 }

/-- A pattern entry. -/
def patternOf (l : List Byte) : Pattern :=
  { lead := field l 0 1, trail := field l 1 1, widen := field l 2 1, minOn := field l 3 1, maxOn := field l 4 2 }

/-- A station settings record from its 22 bytes; none where the kind names no code (R182). -/
def stationSettingsOf (l : List Byte) : Option StationSettings :=
  (kindOf (field l 0 1)).map fun k =>
    { kind := k
      firstOutput := field l 1 1
      channels := field l 2 1
      leadDistance := field l 3 3
      latency := field l 6 3
      horizon := field l 9 1
      maxOn := field l 10 2
      maxOnTime := field l 12 3
      minGap := field l 15 1
      concurrency := field l 16 1
      confirmWindow := field l 17 3
      settleTime := field l 20 2 }

/-- A detection record from its 10 bytes (chapter 11 section 2). -/
def detectionOf (l : List Byte) : DetectionRecord :=
  let w6 := field l 6 2
  let w8 := field l 8 2
  { tag := field l 0 2
    stamp := field l 2 3
    confidence := field l 5 1
    length := bitsAt w6 0 12
    cls := bitsAt w8 0 6
    firstLane := bitsAt w8 6 6
    lastLane := bitsAt w8 12 4 + 16 * bitsAt w6 12 2 }

/-! ### Ranges -/

/-- The largest channel count a kind takes (chapter 7 section 1-2). -/
def maxChannels (k : StationKind) : Nat :=
  match k with
  | .none => 64
  | .nozzle => 64
  | .coil => 16
  | .flap => 1

/-- Every field of a station record in its range (R110, chapter 7 section 1-2). -/
def stationSettingsOk (c : StationSettings) : Bool :=
  c.firstOutput ≤ 127 && 1 ≤ c.channels && c.channels ≤ maxChannels c.kind && c.leadDistance ≤ 1048575 &&
    c.latency ≤ 262143 && 1 ≤ c.horizon && c.horizon ≤ 255 && 1 ≤ c.maxOn && c.maxOn ≤ 4095 &&
    100 ≤ c.maxOnTime && c.maxOnTime ≤ 1000000 && c.minGap ≤ 255 && 1 ≤ c.concurrency &&
    c.concurrency ≤ c.channels && 100 ≤ c.confirmWindow && c.confirmWindow ≤ 1000000 && c.settleTime ≤ 2000 &&
    c.firstOutput + c.channels - 1 ≤ 127

/-- Two chain ranges share an output; a station of kind NONE has none (R110). -/
def rangesShare (c d : StationSettings) : Bool :=
  c.kind != .none && d.kind != .none && c.firstOutput < d.firstOutput + d.channels &&
    d.firstOutput < c.firstOutput + c.channels

/-- A route entry is valid under a partition (R55). -/
def routeValid (p : Partition) (e : RouteEntry) : Bool :=
  let count := (e.stations.toList.filter id).length
  let agrees :=
    match e.delivery with
    | .fixed => count ≤ 1
    | .leastLoaded => count != 1
    | .all => true
  agrees && e.priority ≤ 15 && e.pattern ≤ 7 + p.ramPatterns && e.minConfidence ≤ 255

/-- A pattern is valid (R66, chapter 4 section 4-1). -/
def patternValid (p : Pattern) : Bool :=
  p.lead ≤ 255 && p.trail ≤ 255 && p.widen ≤ 3 && 1 ≤ p.minOn && p.minOn ≤ 16 && 1 ≤ p.maxOn && p.maxOn ≤ 4095 &&
    p.minOn ≤ p.maxOn

end Sys2Proof.Machine
end

