-- ==== Sys2Proof/Machine/Flags.lean ====
section
/-! DEFINITION. Every flag the manual computes: the reverse and overspeed flags, READY, the taken states, slot flags. -/

namespace Sys2Proof.Machine

/-- The reverse flag after a count (R8): cleared when backlash is 0, set at the count that makes it greater than the
limit, otherwise kept. -/
def reverseFlagAtCount (flag reverse : Bool) (backlash limit : Nat) : Bool :=
  if backlash = 0 then false else if reverse && limit < backlash then true else flag

/-- The reverse flag evaluated against a limit (R8 at LINE SET and RESTORE, R14 at the end of STARTUP). -/
def reverseFlagAgainst (flag : Bool) (backlash limit : Nat) : Bool :=
  if limit < backlash then true else if backlash = 0 then false else flag

/-- The overspeed comparison (R11): the threshold is 205 × S. -/
def overspeedAt (v sliceLength : Nat) : Bool := 205 * sliceLength ≤ v

/-- READY at the completion of an accepted frame (R22). -/
def readyAtFrame (ready : Bool) (occupancy : Nat) : Bool :=
  if Config.readyHigh ≤ occupancy then false else ready

/-- READY at a take (R22). -/
def readyAtTake (ready : Bool) (occupancy : Nat) : Bool :=
  if occupancy ≤ Config.readyLow then true else ready

/-! ### Taken states of the plant inputs (R139) -/

/-- The level becomes the taken state (R139). -/
def PlantFilter.takeLevel (f : PlantFilter) : PlantFilter := { f with taken := f.level, since := none }

/-! ### Slot flags (R41) -/

def SlotFlags.clear : SlotFlags := ⟨false, false, false, false, false⟩

def SlotFlags.markMerged (f : SlotFlags) : SlotFlags := { f with merged := true }

def SlotFlags.markCut (f : SlotFlags) : SlotFlags := { f with cut := true }

def SlotFlags.markDegraded (f : SlotFlags) : SlotFlags := { f with degraded := true }

end Sys2Proof.Machine
end

