-- ==== Sys2Proof/Machine/Ops.lean ====
section
/-! DEFINITION. The named operations every block uses: one update for each part of the state, tallies, the report
queue and the send order, slots and records, retirement, and the serving of a request. -/

namespace Sys2Proof.Machine

/-! ### One update for each part of the state -/

namespace Block

def setClock (b : Block) (x : Nat) : Block := { b with clock := x }
def setEncoder (b : Block) (x y : Bool) : Block := { b with encA := x, encB := y }
def setResetLine (b : Block) (x : Bool) : Block := { b with resetLine := x }
def setResetting (b : Block) (x : Option ResetProgress) : Block := { b with resetting := x }
def setPos (b : Block) (x : PositionUnit) : Block := { b with pos := x }
def setIntake (b : Block) (x : IntakeUnit) : Block := { b with intake := x }
def setTrack (b : Block) (x : TrackUnit) : Block := { b with track := x }
def setLists (b : Block) (x : Four (List Entry)) : Block := { b with lists := x }
def setRanks (b : Block) (x : Four Nat) : Block := { b with ranks := x }
def setSettings (b : Block) (x : Settings) : Block := { b with settings := x }
def setStations (b : Block) (x : Four Station) : Block := { b with stations := x }
def setChain (b : Block) (x : ChainUnit) : Block := { b with chain := x }
def setLine (b : Block) (x : LineControl) : Block := { b with line := x }
def setMsg (b : Block) (x : MessageUnit) : Block := { b with msg := x }
def setStore (b : Block) (x : SettingsStore) : Block := { b with store := x }
def setMaint (b : Block) (x : Sequencer) : Block := { b with maint := x }

/-- The station settings record of a station. -/
def config (b : Block) (st : StationId) : StationSettings := b.settings.stations.get st

/-- What station control keeps for a station. -/
def station (b : Block) (st : StationId) : Station := b.stations.get st

def setStation (b : Block) (st : StationId) (x : Station) : Block := b.setStations (b.stations.set st x)

def setList (b : Block) (st : StationId) (l : List Entry) : Block := b.setLists (b.lists.set st l)

def setTable (b : Block) (t : List ParticleRecord) : Block := b.setTrack { b.track with table := t }

end Block

/-! ### Small shared helpers -/

/-- Apply `f` to the element at an index; nothing where the list is shorter. -/
def modifyAt {α : Type} (f : α → α) : Nat → List α → List α
  | _, [] => []
  | 0, a :: l => f a :: l
  | i + 1, a :: l => a :: modifyAt f i l

/-- The numbers of a list without repeats. -/
def distinct : List Nat → List Nat
  | [] => []
  | x :: l => if x ∈ l then distinct l else x :: distinct l

/-- a / b rounded up (00_scope.md section 3-2). -/
def ceilDiv (a b : Nat) : Nat := (a + b - 1) / b

/-- A tally increased by 1, saturating (00_scope.md section 3-5). -/
def bump (t : Nat) : Nat := if t < Config.tallyMax then t + 1 else t

/-- At least `t` microseconds have passed since `start`. -/
def Block.reached (b : Block) (start t : Nat) : Bool := start + t ≤ b.clock

/-- The time base one microsecond later; past its 64 bits it is a free value (R102, log 11). -/
def nextClock (t : Nat) : Nat := if t < Config.clockMax then t + 1 else (Config.clockBeyondRange t).val

/-- One microsecond passes (R102, log 2). -/
def Block.tick (b : Block) : Block := b.setClock (nextClock b.clock)

/-! ### Report queue (R163 to R165) -/

def ReportBody.isResult (r : ReportBody) : Bool :=
  match r with
  | .result _ _ _ => true
  | .start _ _ _ _ _ => false
  | .lineNotice _ _ _ _ => false
  | .stationNotice _ _ _ _ _ => false
  | .channelNotice _ _ _ => false
  | .done _ _ _ _ _ => false

/-- Where the oldest RESULT stands in the queue (R165). -/
def oldestResult : List Report → Option Nat
  | [] => none
  | r :: l => if r.body.isResult then some 0 else (oldestResult l).map (· + 1)

/-- A reply moves up where a report ahead of it is displaced (R156). -/
def WaitingReply.afterRemoval (w : WaitingReply) (i : Nat) : WaitingReply :=
  if i < w.ahead then { w with ahead := w.ahead - 1 } else w

/-- A report is offered: it is numbered (R163), and joins, is dropped, or displaces the oldest RESULT (R164, R165). -/
def offerReport (body : ReportBody) (m : MessageUnit) : MessageUnit :=
  let r : Report := ⟨m.nextReport, body⟩
  let numbered := { m with nextReport := (m.nextReport + 1) % 65536 }
  if m.reports.length < Config.reportCapacity then { numbered with reports := m.reports ++ [r] }
  else if body.isResult then
    { numbered with tallies := { m.tallies with resultDropped := bump m.tallies.resultDropped } }
  else
    match oldestResult m.reports with
    | some i =>
      { numbered with
        reports := m.reports.eraseIdx i ++ [r]
        reply := m.reply.map (·.afterRemoval i)
        tallies := { m.tallies with resultDisplaced := bump m.tallies.resultDisplaced } }
    | none => { numbered with tallies := { m.tallies with reportDropped := bump m.tallies.reportDropped } }

/-- Some block queues a report. -/
def Block.report (b : Block) (body : ReportBody) : Block := b.setMsg (offerReport body b.msg)

/-! ### Send order (R156) -/

/-- The transmitter takes the report at the head of the queue. -/
def sendReport (now : Nat) (m : MessageUnit) : MessageUnit :=
  match m.reports with
  | [] => m
  | r :: rest =>
    { m with
      reports := rest
      reply := m.reply.map (·.afterRemoval 0)
      sending := some ⟨.report, reportFrame r, now⟩
      tallies := { m.tallies with reports := bump m.tallies.reports } }

/-- A free transmitter takes the reply where no report stands ahead of it, and otherwise the report at the head
(R156); an event ends with this (log 15). -/
def startSending (now : Nat) (m : MessageUnit) : MessageUnit :=
  match m.sending with
  | some _ => m
  | none =>
    match m.reply with
    | some w =>
      if w.ahead = 0 || m.reports.isEmpty then
        { m with
          reply := none
          sending := some ⟨.reply w.restart, w.bytes, now⟩
          tallies := { m.tallies with replies := bump m.tallies.replies } }
      else sendReport now m
    | none => sendReport now m

/-- A reply is fixed: it takes its place behind every report then waiting (R156). The reply OK to RESTART carries the
mark that begins the reset (R147). -/
def placeReply (kind : Byte) (r : Reply) (m : MessageUnit) : MessageUnit :=
  { m with
    reply := some ⟨replyFrame kind r, m.reports.length, kind == 0x81#8 && r.status == .ok⟩ }

/-! ### Events -/

/-- An event that happens: its effect on the blocks, after which a free transmitter takes what waits. The queue of
commands is not touched. -/
def event (s : State) (f : Block → Block) : Host.Outcome State Fault Refusal :=
  let b := f s.toBlock
  .next { s with toBlock := b.setMsg (startSending b.clock b.msg) }

/-- An event that happens only where its condition holds; elsewhere the command changes nothing (log 3). -/
def eventIf (due : Bool) (s : State) (f : Block → Block) : Host.Outcome State Fault Refusal :=
  if due then event s f else .next s

/-- No reset is in progress (R145: during one the controller counts, receives, serves and sends nothing). -/
def Block.running (b : Block) : Bool := b.resetting.isNone

/-- The controller is past STARTUP. -/
def Block.started (b : Block) : Bool := b.running && b.line.state != .startup

/-! ### Serving a request (R153, R154) -/

/-- The frame of a request is at the head of the receive buffer and no request is in hand (R153). -/
def servable (mine : Frame → Bool) (b : Block) : Bool :=
  b.running && b.msg.inHand.isNone &&
    match b.msg.buffer with
    | [] => false
    | f :: _ => mine f

/-- The frame leaves the buffer, its request is in hand, it is judged by its own definition, and the reply takes its
place; a reply that is not fixed yet (CLEAR FAULT, R144) takes none. -/
def serveHead (judge : List Byte → Block → Block × Option Reply) (b : Block) : Block :=
  match b.msg.buffer with
  | [] => b
  | f :: rest =>
    let out := judge f.payload (b.setMsg { b.msg with buffer := rest, inHand := some f.kind })
    match out.2 with
    | none => out.1
    | some r => out.1.setMsg (placeReply f.kind r out.1.msg)

/-- A request row: the serving of the head frame where it is one of this row's. -/
def serve (mine : Frame → Bool) (judge : List Byte → Block → Block × Option Reply) (s : State) :
    Host.Outcome State Fault Refusal :=
  eventIf (servable mine s.toBlock) s (serveHead judge)

/-- A reply without items that changes nothing. -/
def refuse (st : Status) (b : Block) : Block × Option Reply := (b, some ⟨st, []⟩)

/-- A reply OK with its items. -/
def answer (b : Block) (items : List Byte) : Block × Option Reply := (b, some ⟨.ok, items⟩)

/-- Check 4 of R154 for an edit: the lock, then the busy check (R175). -/
def editBarred (b : Block) : Option Status :=
  match b.store.lock with
  | .sealed => some .locked
  | .keyed =>
    if b.line.key.taken then
      match b.store.activity with
      | .idle => none
      | .saving _ => some .busy
      | .restoring => some .busy
    else some .locked
  | .opened =>
    match b.store.activity with
    | .idle => none
    | .saving _ => some .busy
    | .restoring => some .busy

/-- Checks 2 to 4 of R154, then the request's own checks. -/
def judged (lengthOk : Block → Nat → Bool) (edit : List Byte → Bool)
    (own : List Byte → Block → Block × Option Reply) (p : List Byte) (b : Block) : Block × Option Reply :=
  if b.line.state = .startup then refuse .notReady b
  else if !lengthOk b p.length then refuse .badArg b
  else
    match (if edit p then editBarred b else none) with
    | some st => refuse st b
    | none => own p b

/-- A payload length that is fixed for the kind (R154). -/
def exactly (n : Nat) (_ : Block) (len : Nat) : Bool := len == n

/-- A request that is no edit, with a fixed payload length. -/
def plainRequest (n : Nat) (own : List Byte → Block → Block × Option Reply) :=
  judged (exactly n) (fun _ => false) own

/-- An edit with a fixed payload length. -/
def editRequest (n : Nat) (own : List Byte → Block → Block × Option Reply) :=
  judged (exactly n) (fun _ => true) own

/-- The frame has this kind. -/
def kindIs (k : Nat) (f : Frame) : Bool := f.kind == BitVec.ofNat 8 k

/-- For a kind whose first payload byte is an order: the frame names this order, or names none of the kind's orders
(and is then refused alike whichever row serves it, log 25). -/
def orderIs (k code orders : Nat) (f : Frame) : Bool :=
  kindIs k f &&
    match f.payload with
    | [] => true
    | c :: _ => c.toNat == code || orders ≤ c.toNat

/-! ### Slots and records (chapter 3) -/

def SlotState.isFinal (x : SlotState) : Bool :=
  match x with
  | .final _ => true
  | .waiting => false
  | .committed => false
  | .active => false

def EntryState.isActive (x : EntryState) : Bool :=
  match x with
  | .active _ _ => true
  | .committed => false

/-- The slot is ended with an outcome and its tag stands in no entry any more (R40, log 21). -/
def Slot.ended (o : SlotOutcome) (sl : Slot) : Slot :=
  { sl with state := .final o, figures := sl.figures.map fun g => { g with entries := 0 } }

/-- A flush or a disarm ends a slot unless it is FINAL (R40, R52). -/
def Slot.aborted (sl : Slot) : Slot := if sl.state.isFinal then sl else sl.ended .aborted

/-- A station leaving ARMED: COMMITTED becomes MASKED, ACTIVE becomes ABORTED (R40). -/
def Slot.stationLeft (sl : Slot) : Slot :=
  match sl.state with
  | .committed => sl.ended .masked
  | .active => sl.ended .aborted
  | .waiting => sl
  | .final _ => sl

/-- An entry that carries the slot's tag ends or is removed by a fault (R38, R39): the count goes down; at 0 the slot
is FINAL, EJECTED or SHIELDED with a completion and CHANNEL_FAULT without; otherwise it is ACTIVE while an entry that
remains is. -/
def Slot.loseEntry (action : Action) (completed anyActive : Bool) (mark : SlotFlags → SlotFlags) (sl : Slot) : Slot :=
  match sl.state, sl.figures with
  | .waiting, _ => sl
  | .final _, _ => sl
  | _, none => sl
  | _, some g =>
    let left := g.entries - 1
    let done := if completed then g.completions + 1 else g.completions
    { sl with
      state :=
        if left = 0 then
          .final (if done = 0 then .channelFault else match action with
            | .eject => .ejected
            | .shield => .shielded)
        else if anyActive then .active else .committed
      figures := some { g with entries := left, completions := done }
      flags := mark sl.flags }

/-- Change the slot of one station, where the record has one. -/
def ParticleRecord.updateSlot (st : StationId) (f : Slot → Slot) (r : ParticleRecord) : ParticleRecord :=
  { r with slots := r.slots.set st ((r.slots.get st).map f) }

/-- The record of a tag; the table holds distinct tags (R35). -/
def findRecord (tag : Nat) (t : List ParticleRecord) : Option ParticleRecord := t.find? fun r => r.tag == tag

/-- Change the record of a tag in its place (R35). -/
def updateRecord (tag : Nat) (f : ParticleRecord → ParticleRecord) (t : List ParticleRecord) : List ParticleRecord :=
  t.map fun r => if r.tag = tag then f r else r

/-- The slot of a tag at a station. -/
def findSlot (tag : Nat) (st : StationId) (t : List ParticleRecord) : Option Slot :=
  (findRecord tag t).bind fun r => r.slots.get st

/-- Change the slot of a tag at a station. -/
def updateSlot (tag : Nat) (st : StationId) (f : Slot → Slot) (t : List ParticleRecord) : List ParticleRecord :=
  updateRecord tag (ParticleRecord.updateSlot st f) t

/-- Place a record in belt order, behind those of equal P (R35). -/
def insertRecord (r : ParticleRecord) : List ParticleRecord → List ParticleRecord
  | [] => [r]
  | q :: l => if r.position < q.position then r :: q :: l else q :: insertRecord r l

/-- The priority of the record of a tag, read for an entry (R89). -/
def tagPriority (t : List ParticleRecord) (tag : Nat) : Nat :=
  match findRecord tag t with
  | some r => r.priority
  | none => 0

/-- The highest priority among some tags (R89). -/
def highestPriority (t : List ParticleRecord) (tags : List Nat) : Nat :=
  tags.foldl (fun p tag => max p (tagPriority t tag)) 0

/-! ### Retirement (R42, R43) -/

/-- Every slot the record has is FINAL (R42). -/
def ParticleRecord.finished (r : ParticleRecord) : Bool :=
  r.slots.toList.all fun
    | none => true
    | some sl => sl.state.isFinal

/-- What a RESULT says of a slot (R45). -/
def Slot.result (sl : Slot) : Option (SlotOutcome × SlotFlags) :=
  match sl.state with
  | .final o => some (o, sl.flags)
  | .waiting => none
  | .committed => none
  | .active => none

/-- The RESULT of a retiring record (R45). -/
def ParticleRecord.resultBody (r : ParticleRecord) : ReportBody :=
  .result r.tag r.cls (r.slots.map fun o => o.bind Slot.result)

/-- A retiring record is counted in the tallies of each station it has a slot at (R43, R44). -/
def countOutcomes (outcomes : Four (List Nat)) (r : ParticleRecord) : Four (List Nat) :=
  allStations.foldl
    (fun acc st =>
      match (r.slots.get st).bind Slot.result with
      | some (o, _) => acc.set st (modifyAt bump o.code (acc.get st))
      | none => acc)
    outcomes

/-- Its RESULT is offered where its report flag is set (R43, R45). -/
def reportRetired (m : MessageUnit) (r : ParticleRecord) : MessageUnit :=
  if r.report then offerReport r.resultBody m else m

/-- Every record whose slots are all FINAL retires, one after another in table order (R42, R43). -/
def retireFinished (b : Block) : Block :=
  let done := b.track.table.filter ParticleRecord.finished
  let b1 := b.setTrack
    { table := b.track.table.filter fun r => !r.finished, outcomes := done.foldl countOutcomes b.track.outcomes }
  b1.setMsg (done.foldl reportRetired b.msg)

/-! ### Line state changes (R133) -/

/-- The line changes state, and the NOTICE of the change is queued; the fault cause stands in it where the line
enters FAULT (log 20). -/
def enterLine (new : LineState) (cause : LineCause) (b : Block) : Block :=
  let b1 := b.setLine { b.line with state := new }
  b1.report (.lineNotice b.line.state new cause (if new = .fault then b.line.fault else .none))

/-- A retirement has left the table empty in DRAINING: the drain is done (R137). -/
def drainDone (b : Block) : Block :=
  if b.line.state = .draining ∧ b.track.table = [] then enterLine .standby .drainDone b else b

/-- Cause and NOTICE of a change of station state (R116). -/
def stationNotice (st : StationId) (left entered : StationState) (cause : StationCause) (holds : Nat)
    (b : Block) : Block :=
  b.report (.stationNotice st left entered cause holds)

end Sys2Proof.Machine
end

