-- ==== Sys2Proof/Machine/Firing.lean ====
section
/-! DEFINITION. The firing lists (chapter 6): order, relations on one channel, starts and ends at a crossing,
withdrawal and early ends. -/

namespace Sys2Proof.Machine

/-! ### Order and identity on a list (R88) -/

/-- Two entries of one list never share on slice and channel, so these two name an entry (R88). -/
def Entry.same (e f : Entry) : Bool := e.channel == f.channel && e.onSlice == f.onSlice

/-- The list order: ascending on slice, then channel (R88). -/
def Entry.before (e f : Entry) : Bool :=
  e.onSlice < f.onSlice || (e.onSlice == f.onSlice && e.channel < f.channel)

/-- Write an entry at its place (R88, R96). -/
def insertEntry (e : Entry) : List Entry → List Entry
  | [] => [e]
  | f :: l => if e.before f then e :: f :: l else f :: insertEntry e l

/-- An entry covers a slice from its on slice up to, and not including, its off slice (R89). -/
def Entry.covers (e : Entry) (slice : Nat) : Bool := e.onSlice ≤ slice && slice < e.offSlice

def Entry.carries (e : Entry) (tag : Nat) : Bool := e.tags.contains tag

/-- An ACTIVE EJECT entry on this channel commands its output on (R103). -/
def Entry.drives (e : Entry) (channel : Nat) : Bool :=
  e.channel == channel && e.kind == .eject && e.state.isActive

/-- The commanded output of a channel: on while an ACTIVE EJECT entry covers it (R103). -/
def commanded (l : List Entry) (channel : Nat) : Bool := l.any fun e => e.drives channel

/-- The tag stands in an ACTIVE entry of the list. -/
def tagActive (l : List Entry) (tag : Nat) : Bool := l.any fun e => e.state.isActive && e.carries tag

/-- The number of entries that carry a tag (chapter 3 section 2-1). -/
def tagEntries (l : List Entry) (tag : Nat) : Nat := l.countP fun e => e.carries tag

/-! ### Spans that meet (R90, R91) -/

/-- The earlier of two spans: the smaller on slice, or the smaller off slice where the on slices are equal (R90). -/
def Entry.isEarlier (e f : Entry) : Bool :=
  e.onSlice < f.onSlice || (e.onSlice == f.onSlice && e.offSlice ≤ f.offSlice)

def earlierOff (e f : Entry) : Nat := if e.isEarlier f then e.offSlice else f.offSlice

def laterOn (e f : Entry) : Nat := if e.isEarlier f then f.onSlice else e.onSlice

/-- The spans have a slice in common (R90). -/
def overlaps (e f : Entry) : Bool := laterOn e f < earlierOff e f

/-- One span ends at the crossing at which the other begins (R90). -/
def touches (e f : Entry) : Bool := laterOn e f == earlierOff e f

/-- The gap between spans that do not overlap (R90). -/
def gap (e f : Entry) : Nat := laterOn e f - earlierOff e f

/-- A newcomer has a relation with an existing entry (R91). -/
def related (minGap : Nat) (n e : Entry) : Bool :=
  n.channel == e.channel &&
    match n.kind, e.kind with
    | .eject, .eject => overlaps n e || gap n e < minGap
    | .shield, .shield => overlaps n e || touches n e
    | .eject, .shield => overlaps n e
    | .shield, .eject => overlaps n e

/-! ### Withdrawal of tags (R104) -/

/-- An entry after it has lost some tags: none where no tag is left; otherwise in its place with its span and state,
and its priority set again from the tags that remain (R89, R104). -/
def Entry.without (t : List ParticleRecord) (gone : List Nat) (e : Entry) : Option Entry :=
  let kept := e.tags.filter fun tag => !gone.contains tag
  if kept.isEmpty then none
  else if kept.length = e.tags.length then some e
  else some { e with tags := kept, priority := highestPriority t kept }

/-- Some tags are withdrawn from a list (R104). -/
def withdrawTags (t : List ParticleRecord) (gone : List Nat) (l : List Entry) : List Entry :=
  l.filterMap (Entry.without t gone)

/-- A station leaves ARMED: its list is emptied and its slots end (R105, R40). -/
def withdrawStation (st : StationId) (b : Block) : Block :=
  (b.setList st []).setTable (b.track.table.map (ParticleRecord.updateSlot st Slot.stationLeft))

/-- Every slot of a record that is not FINAL becomes ABORTED (R52). -/
def ParticleRecord.abort (r : ParticleRecord) : ParticleRecord :=
  { r with slots := r.slots.map fun o => o.map Slot.aborted }

/-- The flush: every slot not FINAL becomes ABORTED, every entry is removed, every record retires (R52, R106). -/
def flush (b : Block) : Block :=
  retireFinished ((b.setLists (Four.all4 [])).setTable (b.track.table.map ParticleRecord.abort))

/-! ### Ends of entries (R100, R107) -/

/-- One entry ends or is removed by a fault, and the slots of its tags follow it (R38, R39). -/
def endEntry (st : StationId) (completed : Bool) (mark : SlotFlags → SlotFlags) (b : Block) (e : Entry) : Block :=
  let l := (b.lists.get st).filter fun f => !f.same e
  let follow (t : List ParticleRecord) (tag : Nat) : List ParticleRecord :=
    updateRecord tag
      (fun r => r.updateSlot st (Slot.loseEntry r.action completed (tagActive l tag) mark)) t
  (b.setList st l).setTable (e.tags.foldl follow b.track.table)

/-- The entries whose off slice is c end normally at the crossing to c (R100). -/
def endAtCrossing (st : StationId) (c : Nat) (b : Block) : Block :=
  ((b.lists.get st).filter fun e => e.offSlice == c).foldl (endEntry st true id) b

/-! ### Starts of entries (R101) -/

/-- A slot follows the start of one of its entries (R38). -/
def Slot.started (sl : Slot) : Slot :=
  match sl.state with
  | .committed => { sl with state := .active }
  | .waiting => sl
  | .active => sl
  | .final _ => sl

/-- The confirm timer is started where it is idle (R117). -/
def Channel.startConfirm (now : Nat) (ch : Channel) : Channel :=
  match ch.confirm with
  | none => { ch with confirm := some now }
  | some _ => ch

/-- Change one channel of a station. -/
def updateChannel (st : StationId) (ch : Nat) (f : Channel → Channel) (b : Block) : Block :=
  b.setStation st { b.station st with channels := modifyAt f ch (b.station st).channels }

/-- One entry becomes ACTIVE: its slots follow, and an EJECT entry starts its channel's confirm timer. -/
def followStart (st : StationId) (b : Block) (e : Entry) : Block :=
  let b1 := b.setTable (e.tags.foldl (fun t tag => updateSlot tag st Slot.started t) b.track.table)
  match e.kind with
  | .eject => updateChannel st e.channel (Channel.startConfirm b.clock) b1
  | .shield => b1

/-- This entry starts at the crossing to c. -/
def Entry.startsAt (c : Nat) (e : Entry) : Bool := e.onSlice == c && !e.state.isActive

/-- The entries whose on slice is c start at the crossing to c, after the ends (R101). -/
def startAtCrossing (st : StationId) (c : Nat) (b : Block) : Block :=
  let l := b.lists.get st
  let b1 := b.setList st (l.map fun e => if e.startsAt c then { e with state := .active b.clock false } else e)
  (l.filter (Entry.startsAt c)).foldl (followStart st) b1

end Sys2Proof.Machine
end

