-- ==== Sys2Proof/Machine/Route.lean ====
section
/-! DEFINITION. The route unit (chapter 4): the tests a route entry makes, holds, the least-loaded choice and the
ranks, the pattern store, the effective floor. -/

namespace Sys2Proof.Machine

/-! ### Route tests (R28, R48) -/

/-- The route entry of a class (R54). -/
def Block.route (b : Block) (cls : Nat) : RouteEntry := b.settings.routes.getD cls RouteEntry.initial

/-- Hold flag, empty station set, minimum confidence, in this order; none where all three pass (R28). -/
def routeTest (e : RouteEntry) (confidence : Nat) : Option Disposition :=
  if e.hold then some .held
  else if e.stations = Four.all4 false then some .passed
  else if confidence < e.minConfidence then some .unsure
  else none

/-! ### Holds (R58 to R61) -/

/-- Every station the entry names is ARMED; true of an empty set (R60, R61). -/
def allArmed (b : Block) (e : RouteEntry) : Bool :=
  allStations.all fun st => !e.stations.get st || (b.station st).state == .armed

/-- The hold flag is set in every entry that names the station (R58). -/
def setHolds (st : StationId) (b : Block) : Block :=
  b.setSettings
    { b.settings with
      routes := b.settings.routes.map fun e => if e.stations.get st then { e with hold := true } else e }

/-- The hold count: the entries whose set names the station (R58). -/
def holdCount (st : StationId) (b : Block) : Nat := b.settings.routes.countP fun e => e.stations.get st

/-- The hold flag a WRITE leaves: a carried on sets it; a carried off clears it where every station of the new set is
ARMED and otherwise keeps it (R56, R60). -/
def heldAfterWrite (b : Block) (old carried : RouteEntry) : Bool :=
  carried.hold || (old.hold && !allArmed b carried)

/-- RELEASE HOLDS on one entry (R61). -/
def released (b : Block) (e : RouteEntry) : RouteEntry :=
  if e.hold && allArmed b e then { e with hold := false } else e

/-! ### Least-loaded choice (R62, R63) -/

/-- The candidates: the stations of the set that are ARMED (R62). -/
def candidates (b : Block) (e : RouteEntry) : List StationId :=
  allStations.filter fun st => e.stations.get st && (b.station st).state == .armed

/-- The better of two candidates: the fewer entries, then the higher rank (R62). -/
def better (b : Block) (x y : StationId) : StationId :=
  let lx := (b.lists.get x).length
  let ly := (b.lists.get y).length
  if ly < lx || (lx == ly && b.ranks.get x < b.ranks.get y) then y else x

/-- The station chosen, where there is a candidate (R62). -/
def chooseStation (b : Block) (e : RouteEntry) : Option StationId :=
  match candidates b e with
  | [] => none
  | st :: rest => some (rest.foldl (better b) st)

/-- The ranks after a choice (R63). -/
def rotateRanks (ranks : Four Nat) (chosen : StationId) : Four Nat :=
  (ranks.map fun r => if r < ranks.get chosen then r + 1 else r).set chosen 0

/-! ### Slots of a record (R36, R50) -/

/-- floor((P + D_s) / S) − H_s (R36). -/
def commitSliceOf (b : Block) (st : StationId) (position : Nat) : Int :=
  (((position + (b.config st).leadDistance) / b.settings.sliceLength : Nat) : Int) - (b.config st).horizon

/-- A slot created WAITING (R36). -/
def waitingSlot (b : Block) (st : StationId) (position : Nat) : Slot :=
  { state := .waiting, commitSlice := commitSliceOf b st position, figures := none, flags := SlotFlags.clear }

/-- A slot created FINAL; what it shows as commit slice is not stated (log 14). -/
def finalSlot (b : Block) (st : StationId) (position : Nat) (o : SlotOutcome) : Slot :=
  { state := .final o, commitSlice := Config.finalSlotCommitSlice (commitSliceOf b st position), figures := none
    flags := SlotFlags.clear }

/-- One slot for each station of the set; `make` says how (R36). -/
def slotsOver (e : RouteEntry) (make : StationId → Slot) : Four (Option Slot) :=
  let one (st : StationId) : Option Slot := if e.stations.get st then some (make st) else none
  ⟨one 0, one 1, one 2, one 3⟩

/-- The slots of a new or rebuilt record, and the ranks after the choice if one is made (R36, R62, R63). -/
def createSlots (b : Block) (e : RouteEntry) (position : Nat) : Four (Option Slot) × Four Nat :=
  match e.delivery with
  | .fixed => (slotsOver e fun st => waitingSlot b st position, b.ranks)
  | .all => (slotsOver e fun st => waitingSlot b st position, b.ranks)
  | .leastLoaded =>
    match chooseStation b e with
    | none => (slotsOver e fun st => finalSlot b st position .masked, b.ranks)
    | some chosen =>
      (slotsOver e fun st => if st = chosen then waitingSlot b st position else finalSlot b st position .notChosen,
       rotateRanks b.ranks chosen)

/-! ### Patterns (R65, R67, R72) -/

/-- The pattern of a code under the working settings, where the code is below 8 + k. -/
def patternAt (s : Settings) (code : Nat) : Option Pattern :=
  if code < 8 then romPatterns[code]?
  else if code < 8 + s.partition.ramPatterns then s.patterns[code - 8]?
  else none

/-- The RAM patterns carried across to a number of codes: kept, lost, or opened as pattern 0 (R72). -/
def carryPatterns (k : Nat) (old : List Pattern) : List Pattern :=
  old.take k ++ List.replicate (k - old.length) pattern0

/-! ### Floors (R69) -/

/-- The station's effective floor: the larger floor at a NOZZLE station while AIR-LOW is asserted (R69). -/
def effectiveFloor (b : Block) (st : StationId) : Nat :=
  let f := b.settings.floors.get st
  if (b.config st).kind = .nozzle ∧ b.line.airLow.taken = true then max f.floor f.lowAir else f.floor

end Sys2Proof.Machine
end

