-- ==== Sys2Proof/Machine/Commit.lean ====
section
/-! DEFINITION. The commit (chapters 5 and 6): its eight checks, as one event. -/

namespace Sys2Proof.Machine

/-! ### Check 3, stages a to f (R80 to R84) -/

/-- The lead K = ceil(T × V / 8,192) (R80). -/
def leadCounts (latency v : Nat) : Nat := ceilDiv (latency * v) 8192

/-- A = P + D − E_pre − K (R81). -/
def switchOnAt (r : ParticleRecord) (cfg : StationSettings) (p : Pattern) (k : Nat) : Int :=
  (r.position : Int) + cfg.leadDistance - p.lead - k

/-- B = P + L + D + E_post − K (R81). -/
def switchOffAt (r : ParticleRecord) (cfg : StationSettings) (p : Pattern) (k : Nat) : Int :=
  (r.position : Int) + r.length + cfg.leadDistance + p.trail - k

/-- Stage d: a span shorter than the minimum on is lengthened downstream (R83). -/
def lengthened (on off minOn : Nat) : Nat := if off - on < minOn then on + minOn else off

/-- Stage e: a span above the cap is cut at its downstream end (R83). -/
def capped (on off cap : Nat) : Nat := if cap < off - on then on + cap else off

/-- Stage f: the on slice against the first switchable slice c + 1; none is a miss (R84). -/
def lateOn (on off c : Nat) : Option Nat :=
  if c + 1 ≤ on then some on else if c + 1 < off then some (c + 1) else none

/-! ### Check 4, stages g and h (R85 to R87) -/

/-- The channel a lane falls under (chapter 5 section 6-1). -/
def laneChannel (lane channels : Nat) : Nat := lane * channels / 64

/-- The first channel after widening and clamping (R85). -/
def firstChannelOf (r : ParticleRecord) (cfg : StationSettings) (p : Pattern) : Nat :=
  laneChannel r.firstLane cfg.channels - p.widen

/-- The last channel after widening and clamping (R85). -/
def lastChannelOf (r : ParticleRecord) (cfg : StationSettings) (p : Pattern) : Nat :=
  min (laneChannel r.lastLane cfg.channels + p.widen) (cfg.channels - 1)

/-- The state of a channel of a station. -/
def channelAt (chans : List Channel) (ch : Nat) : Channel := chans.getD ch Channel.ok

/-- The channels of the range that are not FAULTED (R86). -/
def usableChannels (chans : List Channel) (first last : Nat) : List Nat :=
  (List.range' first (last + 1 - first)).filter fun ch => (channelAt chans ch).fault.isNone

/-- Stages a to h for one piece at one station: the entries to be judged by checks 5 to 8, or the outcome and flags
of the failing stage (R80 to R87). `known` says that the pattern code is below 8 + k. -/
def planCommit (r : ParticleRecord) (cfg : StationSettings) (p : Pattern) (known : Bool) (chans : List Channel)
    (c v s : Nat) : Except (SlotOutcome × SlotFlags) Plan :=
  let k := leadCounts cfg.latency v
  let flagsA := { SlotFlags.clear with degraded := !known }
  let offAt := switchOffAt r cfg p k
  if offAt ≤ 0 then .error (.missed, flagsA)
  else
    let onC := (switchOnAt r cfg p k).toNat / s
    let offC := ceilDiv offAt.toNat s
    let offD := lengthened onC offC p.minOn
    let cap := min p.maxOn cfg.maxOn
    let offE := capped onC offD cap
    let flagsE := { flagsA with truncated := decide (cap < offD - onC) }
    match lateOn onC offE c with
    | none => .error (.missed, flagsE)
    | some onF =>
      let flagsF := { flagsE with late := decide (onC < c + 1) }
      let first := firstChannelOf r cfg p
      let last := lastChannelOf r cfg p
      let usable := usableChannels chans first last
      let flagsG := if usable.length < last + 1 - first then flagsF.markDegraded else flagsF
      if usable.isEmpty then .error (.channelFault, flagsG)
      else
        .ok
          { onSlice := onF, offSlice := offE, firstChannel := first, lastChannel := last, flags := flagsG
            newcomers := usable.map fun ch =>
              { channel := ch, onSlice := onF, offSlice := offE, kind := r.action, priority := r.priority
                tags := [r.tag], state := .committed } }

/-! ### Check 5: partners, opponents, conflicts (R92 to R94) -/

/-- The tags of some entries and a newcomer, without repeats, the newcomer's last (R92, R96, log 16). -/
def tagsWith (partners : List Entry) (n : Entry) : List Nat := distinct (partners.flatMap (·.tags) ++ n.tags)

/-- The smallest on slice among a newcomer and some entries (R92). -/
def joinedOn (partners : List Entry) (n : Entry) : Nat := partners.foldl (fun x e => min x e.onSlice) n.onSlice

/-- The largest off slice among a newcomer and some entries (R92). -/
def joinedOff (partners : List Entry) (n : Entry) : Nat := partners.foldl (fun x e => max x e.offSlice) n.offSlice

/-- The merge of a newcomer with its candidates is feasible (R92). -/
def mergeFeasible (cfg : StationSettings) (cands : List Entry) (n : Entry) : Bool :=
  (tagsWith cands n).length ≤ Config.maxTags &&
    match n.kind with
    | .eject => joinedOff cands n - joinedOn cands n ≤ cfg.maxOn
    | .shield => true

/-- The entries of the other kind on the newcomer's channel that overlap a span (R93). -/
def otherKind (l : List Entry) (n : Entry) (on off : Nat) : List Entry :=
  l.filter fun e => e.channel == n.channel && e.kind != n.kind && overlaps e { n with onSlice := on, offSlice := off }

/-- A newcomer's candidates, and from them its partners or its opponents (R92, R93). -/
def bidOf (cfg : StationSettings) (l : List Entry) (n : Entry) : Bid :=
  let cands := l.filter fun e => e.kind == n.kind && related cfg.minGap n e
  if cands.isEmpty then ⟨n, [], otherKind l n n.onSlice n.offSlice⟩
  else if mergeFeasible cfg cands n then ⟨n, cands, otherKind l n (joinedOn cands n) (joinedOff cands n)⟩
  else ⟨n, [], cands ++ otherKind l n n.onSlice n.offSlice⟩

/-- The slot of this tag at the station is COMMITTED (R94). -/
def slotCommitted (t : List ParticleRecord) (st : StationId) (tag : Nat) : Bool :=
  match findSlot tag st t with
  | some sl => sl.state == .committed
  | none => false

/-- A newcomer of this priority beats an opponent (R94). -/
def beats (t : List ParticleRecord) (st : StationId) (priority : Nat) (o : Entry) : Bool :=
  !o.state.isActive && o.priority < priority && o.tags.all (slotCommitted t st)

/-! ### The list as it would stand (R95 to R97) -/

/-- The state of a joined entry: that of the ACTIVE partner where one remains (R96). -/
def joinedState (partners : List Entry) : EntryState :=
  match partners.find? fun e => e.state.isActive with
  | some e => e.state
  | none => .committed

/-- A newcomer as written on a list from which the displaced tags are already gone (R96). -/
def writtenOn (t : List ParticleRecord) (l : List Entry) (bid : Bid) : Written :=
  let partners := l.filter fun e => bid.partners.any e.same
  if partners.isEmpty then ⟨bid.entry, false⟩
  else
    let tags := tagsWith partners bid.entry
    ⟨{ bid.entry with
        onSlice := joinedOn partners bid.entry
        offSlice := joinedOff partners bid.entry
        tags := tags
        priority := highestPriority t tags
        state := joinedState partners }, true⟩

/-- The number of distinct channels an EJECT entry covers in a slice (R98). -/
def airCount (l : List Entry) (slice : Nat) : Nat :=
  (distinct ((l.filter fun e => e.kind == .eject && e.covers slice).map (·.channel))).length

/-- In every slice of the written spans the air count is within the limit (R98). -/
def airWithin (limit : Nat) (l : List Entry) (written : List Written) : Bool :=
  written.all fun w =>
    (List.range' w.entry.onSlice (w.entry.offSlice - w.entry.onSlice)).all fun z => airCount l z ≤ limit

/-- Checks 5 to 7: the settlement to apply, or the outcome of the check that fails (R94, R97, R98). -/
def settleCommit (t : List ParticleRecord) (l : List Entry) (cfg : StationSettings) (capacity : Nat) (st : StationId)
    (r : ParticleRecord) (plan : Plan) : Except SlotOutcome Settlement :=
  let bids := plan.newcomers.map (bidOf cfg l)
  let opponents := bids.flatMap (·.opponents)
  if !opponents.all (beats t st r.priority) then .error .refused
  else
    let displaced := distinct (opponents.flatMap (·.tags))
    let kept := withdrawTags t displaced l
    let written := bids.map (writtenOn t kept)
    let rest := kept.filter fun e => !bids.any fun bid => bid.partners.any e.same
    let list := written.foldl (fun acc w => insertEntry w.entry acc) rest
    if capacity < list.length then .error .listFull
    else if r.action = .eject ∧ airWithin cfg.concurrency list written = false then .error .airLimit
    else .ok ⟨list, displaced, written⟩

/-! ### Check 8: apply (R99) -/

/-- A slot whose tag stands in a joined entry: MERGED is set, and it is ACTIVE where that entry is (R96). -/
def Slot.merged (active : Bool) (sl : Slot) : Slot :=
  { sl with
    flags := sl.flags.markMerged
    state := if active && sl.state == .committed then .active else sl.state }

/-- The tags of one joined entry are marked; an entry written alone marks none. -/
def markJoined (st : StationId) (t : List ParticleRecord) (w : Written) : List ParticleRecord :=
  if w.joined then
    w.entry.tags.foldl (fun acc tag => updateSlot tag st (Slot.merged w.entry.state.isActive) acc) t
  else t

/-- The newcomer's slot after a successful commit (R37). -/
def Slot.commit (plan : Plan) (entries : Nat) (active : Bool) (sl : Slot) : Slot :=
  { sl with
    state := if active then .active else .committed
    figures := some ⟨plan.onSlice, plan.offSlice, plan.firstChannel, plan.lastChannel, entries, 0⟩
    flags := plan.flags }

/-- A commit that failed (R37, R78). -/
def Slot.fail (o : SlotOutcome) (f : SlotFlags) (sl : Slot) : Slot := { sl with state := .final o, flags := f }

/-- The apply step: displaced slots, the list, the newcomer's slot, the marks of the merges (R99). -/
def applyCommit (st : StationId) (r : ParticleRecord) (plan : Plan) (x : Settlement) (b : Block) : Block :=
  let t1 := x.displaced.foldl (fun t tag => updateSlot tag st (Slot.ended .displaced) t) b.track.table
  let t2 := updateSlot r.tag st (Slot.commit plan (tagEntries x.list r.tag) (tagActive x.list r.tag)) t1
  (b.setList st x.list).setTable (x.written.foldl (markJoined st) t2)

/-! ### The commit event (R77 to R79) -/

/-- The commit of one record's slot at one station, all its inputs read as they stand (R77), the checks in order
(R78). A slot in any state other than WAITING is not evaluated (R37). -/
def commitAt (st : StationId) (tag : Nat) (b : Block) : Block :=
  match findRecord tag b.track.table with
  | none => b
  | some r =>
    match r.slots.get st with
    | none => b
    | some sl =>
      let finish (o : SlotOutcome) (f : SlotFlags) : Block :=
        b.setTable (updateSlot tag st (Slot.fail o f) b.track.table)
      if sl.state ≠ .waiting then b
      else if (b.station st).state ≠ .armed then finish .masked SlotFlags.clear
      else if r.action = .eject ∧ r.priority ≤ effectiveFloor b st then finish .floored SlotFlags.clear
      else
        let found := patternAt b.settings r.pattern
        match planCommit r (b.config st) (found.getD pattern0) found.isSome (b.station st).channels b.pos.slice
            b.pos.v b.settings.sliceLength with
        | .error (o, f) => finish o f
        | .ok plan =>
          match settleCommit b.track.table (b.lists.get st) (b.config st)
              b.settings.partition.listCapacity st r plan with
          | .error o => finish o plan.flags
          | .ok x => applyCommit st r plan x b

/-! ### Which commits are due (R74 to R76) -/

/-- The record has a WAITING slot at the station whose commit slice is c: a pending commit due at the crossing to c
(R74). -/
def dueAtCrossing (st : StationId) (c : Nat) (r : ParticleRecord) : Bool :=
  match r.slots.get st with
  | some sl => sl.state == .waiting && sl.commitSlice == (c : Int)
  | none => false

/-- One scheduler's work at the crossing to c: ends, starts, then the due commits in table order (R76). -/
def schedulerAtCrossing (c : Nat) (b : Block) (st : StationId) : Block :=
  let b1 := startAtCrossing st c (endAtCrossing st c b)
  ((b1.track.table.filter (dueAtCrossing st c)).map (·.tag)).foldl (fun acc tag => commitAt st tag acc) b1

/-- The slot of the tag is WAITING with its commit slice at or below the scan slice (R75). -/
def dueNow (st : StationId) (tag : Nat) (b : Block) : Bool :=
  match findSlot tag st b.track.table with
  | some sl => sl.state == .waiting && sl.commitSlice ≤ (b.pos.slice : Int)
  | none => false

/-- The due commits of one record at a take or an AMEND, in station order; the records that become all FINAL by one
of them retire with it (R75, R99, log 18). -/
def commitDueSlots (tag : Nat) (b : Block) : Block :=
  retireFinished
    (allStations.foldl (fun acc st => if dueNow st tag acc then retireFinished (commitAt st tag acc) else acc) b)

end Sys2Proof.Machine
end

