-- ==== Sys2Proof/Machine/Intake.lean ====
section
/-! DEFINITION. The commands of the intake unit (chapter 2): DETECTION_BYTE, DETECTION_GAP_TIMEOUT, TAKE. -/

namespace Sys2Proof.Machine

/-! ### Receiver (R17 to R19) -/

/-- A frame is discarded whole: BAD_FRAME, and SEEKING (R18). -/
def discardDetection (u : IntakeUnit) : IntakeUnit :=
  { u with receiver := .seeking, tallies := { u.tallies with badFrame := bump u.tallies.badFrame } }

/-- One record is offered to the queue (R19). -/
def offerRecord (u : IntakeUnit) (r : DetectionRecord) : IntakeUnit :=
  let received := { u.tallies with received := bump u.tallies.received }
  if u.queue.length < Config.intakeCapacity then { u with queue := u.queue ++ [r], tallies := received }
  else { u with tallies := { received with queueFull := bump u.tallies.queueFull } }

/-- A good frame's records are offered together, and READY is set from the occupancy (R19, R22). -/
def acceptDetection (records : List DetectionRecord) (u : IntakeUnit) : IntakeUnit :=
  let offered := records.foldl offerRecord { u with receiver := .seeking }
  { offered with ready := readyAtFrame offered.ready offered.queue.length }

/-- The length byte names one to eight whole records (R17). -/
def detectionLengthOk (n : Nat) : Bool := n % 10 == 0 && 1 ≤ n / 10 && n / 10 ≤ 8

/-- The records of a frame's record bytes (chapter 11 section 2). -/
def detectionRecords (l : List Byte) : List DetectionRecord := (entriesOf 10 l).map detectionOf

/-- A byte in IN_FRAME, with the bytes after the start byte up to and including it (R17, R18). -/
def detectionInFrame (now : Nat) (bytes : List Byte) (u : IntakeUnit) : IntakeUnit :=
  let len := field bytes 0 1
  if !detectionLengthOk len then discardDetection u
  else if bytes.length < len + 3 then { u with receiver := .inFrame bytes now }
  else if crcBytes (bytes.take (len + 1)) = bytes.drop (len + 1) then
    acceptDetection (detectionRecords ((bytes.take (len + 1)).drop 1)) u
  else discardDetection u

/-- More than the given time has passed in IN_FRAME without a byte (R18, R151). -/
def Receiver.late (r : Receiver) (gap now : Nat) : Bool :=
  match r with
  | .seeking => false
  | .inFrame _ last => last + gap < now

/-- The receiver examines a byte (R17); one that comes after the gap finds the frame discarded (R18, log 9). -/
def examineDetection (now : Nat) (v : Byte) (u : IntakeUnit) : IntakeUnit :=
  let w := if u.receiver.late Config.detectionGap now then discardDetection u else u
  match w.receiver with
  | .seeking => if v = startByte then { w with receiver := .inFrame [] now } else w
  | .inFrame bytes _ => detectionInFrame now (bytes ++ [v]) w

/-- DETECTION_BYTE (R17); before the end of STARTUP the receiver is held (R20). -/
def execDetectionByte (v : Byte) (s : State) : Host.Outcome State Fault Refusal :=
  eventIf s.toBlock.started s fun b => b.setIntake (examineDetection b.clock v b.intake)

/-- DETECTION_GAP_TIMEOUT (R18). -/
def execDetectionGapTimeout (s : State) : Host.Outcome State Fault Refusal :=
  eventIf (s.toBlock.started && s.intake.receiver.late Config.detectionGap s.clock) s fun b =>
    b.setIntake (discardDetection b.intake)

/-! ### Take (R23 to R31) -/

/-- L = 0, or the first lane above the last (R25). -/
def DetectionRecord.invalid (r : DetectionRecord) : Bool := r.length == 0 || r.lastLane < r.firstLane

/-- The rebuilt position P (R26). -/
def rebuild (x stamp : Nat) : Int :=
  let low := x % 16777216
  if stamp ≤ low then (x : Int) - low + stamp else (x : Int) - low + stamp - 16777216

/-- P below 0, or older than the stale limit (R27). -/
def isStale (x staleLimit : Nat) (p : Int) : Bool := p < 0 || (staleLimit : Int) < (x : Int) - p

/-- The first disposition that applies at a take (R24 to R31). -/
def dispositionOf (b : Block) (r : DetectionRecord) : Disposition :=
  if b.line.state ≠ .run then .notRunning
  else if r.invalid then .invalid
  else if isStale b.pos.x b.settings.staleLimit (rebuild b.pos.x r.stamp) then .stale
  else
    match routeTest (b.route r.cls) r.confidence with
    | some d => d
    | none =>
      if (findRecord r.tag b.track.table).isSome then .duplicate
      else if b.settings.partition.trackCapacity ≤ b.track.table.length then .tableFull
      else .admitted

/-- The one tally a take increases (R23, R32). -/
def IntakeTallies.count (d : Disposition) (t : IntakeTallies) : IntakeTallies :=
  match d with
  | .notRunning => { t with notRunning := bump t.notRunning }
  | .invalid => { t with invalid := bump t.invalid }
  | .stale => { t with stale := bump t.stale }
  | .held => { t with held := bump t.held }
  | .passed => { t with passed := bump t.passed }
  | .unsure => { t with unsure := bump t.unsure }
  | .duplicate => { t with duplicate := bump t.duplicate }
  | .tableFull => { t with tableFull := bump t.tableFull }
  | .admitted => { t with admitted := bump t.admitted }

/-- The particle record of an admission (R31, R36). -/
def admittedRecord (r : DetectionRecord) (e : RouteEntry) (position : Nat) (slots : Four (Option Slot)) :
    ParticleRecord :=
  { tag := r.tag, cls := r.cls, position := position, length := r.length, firstLane := r.firstLane
    lastLane := r.lastLane, confidence := r.confidence, action := e.action, priority := e.priority
    pattern := e.pattern, delivery := e.delivery, report := e.report, slots := slots }

/-- An admission: the choice, the record in its place, and the commits already due (R31, R36, R75). -/
def admitPiece (r : DetectionRecord) (b : Block) : Block :=
  let e := b.route r.cls
  let position := (rebuild b.pos.x r.stamp).toNat
  let made := createSlots b e position
  let placed := (b.setRanks made.2).setTable
    (insertRecord (admittedRecord r e position made.1) b.track.table)
  commitDueSlots r.tag placed

/-- The head leaves the queue, READY is set, and one disposition tally is increased (R22, R23). -/
def IntakeUnit.takeHead (u : IntakeUnit) (rest : List DetectionRecord) (now : Nat) (d : Disposition) : IntakeUnit :=
  { u with
    queue := rest
    ready := readyAtTake u.ready rest.length
    lastTake := some now
    tallies := u.tallies.count d }

/-- One take (R23). -/
def takeOne (b : Block) : Block :=
  match b.intake.queue with
  | [] => b
  | r :: rest =>
    let d := dispositionOf b r
    let taken := b.setIntake (b.intake.takeHead rest b.clock d)
    if d = .admitted then admitPiece r taken else taken

/-- The queue holds a record, and 20 µs have passed since the previous take (R23). -/
def takeDue (b : Block) : Bool :=
  b.started && !b.intake.queue.isEmpty &&
    match b.intake.lastTake with
    | none => true
    | some t => b.reached t Config.takePeriod

/-- TAKE (R23). -/
def execTake (s : State) : Host.Outcome State Fault Refusal := eventIf (takeDue s.toBlock) s takeOne

end Sys2Proof.Machine
end

