-- ==== Sys2Proof/Machine/Sequencer.lean ====
section
/-! DEFINITION. The maintenance sequencer's operations (chapter 10 sections 5 and 6): the channel in hand of a purge,
the steps of a calibration, and what a channel's fault or a station's leaving ARMED does to either. -/

namespace Sys2Proof.Machine

/-! ### Channels of a station -/

/-- The channels of a station: 0 to N_s − 1. -/
def channelNumbers (b : Block) (st : StationId) : List Nat := List.range (b.config st).channels

/-- A channel of a station is OK. -/
def channelOk (b : Block) (st : StationId) (ch : Nat) : Bool := (channelAt (b.station st).channels ch).fault.isNone

/-- The number of a station's channels that are FAULTED. -/
def faultedCount (b : Block) (st : StationId) : Nat := (channelNumbers b st).countP fun ch => !channelOk b st ch

/-- Every channel of the station is FAULTED (R112, R121). -/
def allFaulted (b : Block) (st : StationId) : Bool := (channelNumbers b st).all fun ch => !channelOk b st ch

/-! ### Purge (R177, R178) -/

/-- A purge ends: IDLE, and a DONE report with the number of the station's channels that are FAULTED at that event. -/
def endPurge (ending : DoneResult) (p : Purge) (b : Block) : Block :=
  (b.setMaint .idle).report (.done .purge ending (some p.station) (some (faultedCount b p.station)) 0)

/-- The turns of a purge in order: each cycle with each channel. -/
def purgeTurns (cycles channels : Nat) : List (Nat × Nat) :=
  (List.range' 1 cycles).flatMap fun cycle => (List.range channels).map fun ch => (cycle, ch)

/-- The first turn from (cycle, channel) on whose channel is OK: FAULTED channels are passed over at once (R177). -/
def nextTurn (b : Block) (p : Purge) (cycle channel : Nat) : Option (Nat × Nat) :=
  (purgeTurns p.cycles (b.config p.station).channels).find? fun t =>
    (cycle < t.1 || (cycle == t.1 && channel ≤ t.2)) && channelOk b p.station t.2

/-- The next channel from (cycle, channel) on is taken in hand, and the sequencer is as `mode` says; with none left
the purge is complete (R177). -/
def takeInHand (mode : Purge → Sequencer) (p : Purge) (cycle channel : Nat) (b : Block) : Block :=
  match nextTurn b p cycle channel with
  | some t => b.setMaint (mode { p with cycle := t.1, channel := t.2, phase := .waiting })
  | none => endPurge .ok p b

/-! ### Calibration (R179, R180) -/

/-- A calibration ends with its DONE report (R180). -/
def endCalibration (ending : DoneResult) (latency : Nat) (c : Calibration) (b : Block) : Block :=
  (b.setMaint .idle).report (.done .calibrate ending (some c.station) (some c.channel) latency)

/-- The latency of a station is written into the working settings (R180). -/
def setLatency (st : StationId) (t : Nat) (b : Block) : Block :=
  b.setSettings
    { b.settings with stations := b.settings.stations.set st { b.config st with latency := t } }

/-- The eighth delay is recorded: the mean rounded up is written where it is in the latency's range (R180). -/
def finishCalibration (c : Calibration) (delays : List Nat) (b : Block) : Block :=
  let t := ceilDiv delays.sum 8
  if t ≤ 262143 then endCalibration .ok t c (setLatency c.station t b)
  else endCalibration .outOfRange 0 c b

/-- The delay of a shot, rounded up to a whole multiple of 100 µs (R179). -/
def shotDelay (start now : Nat) : Nat := ceilDiv (now - start) 100 * 100

/-- A refresh whose feedback shows the channel on ends the shot that was in progress when the refresh began
(R179, log 24). -/
def calibrationStep (before : Sequencer) (b : Block) : Block :=
  match before, b.maint with
  | .calibrating c, .calibrating _ =>
    match c.shot with
    | none => b
    | some start =>
      if b.chain.feedback.getD ((b.config c.station).firstOutput + c.channel) false then
        let delays := c.delays ++ [shotDelay start b.clock]
        if delays.length < 8 then b.setMaint (.calibrating { c with delays := delays, shot := none })
        else finishCalibration c delays b
      else b
  | _, _ => b

/-! ### Shots (R177, R179) -/

/-- A calibration's next shot may begin (R179). -/
def Calibration.shotDue (c : Calibration) (b : Block) : Bool :=
  c.shot.isNone &&
    match c.lastStart with
    | none => true
    | some t => b.reached t Config.calibrationSpacing

/-- A refresh begins the shot that waits for one, and the shot starts its channel's confirm timer (R117, R177,
R179). -/
def beginShots (b : Block) : Block :=
  match b.maint with
  | .purging p =>
    match p.phase with
    | .waiting =>
      updateChannel p.station p.channel (Channel.startConfirm b.clock)
        (b.setMaint (.purging { p with phase := .shot b.clock }))
    | .shot _ => b
    | .gap _ => b
  | .calibrating c =>
    if c.shotDue b then
      updateChannel c.station c.channel (Channel.startConfirm b.clock)
        (b.setMaint (.calibrating { c with lastStart := some b.clock, shot := some b.clock }))
    else b
  | .idle => b
  | .suspended _ => b

/-- A purge or calibration shot is on this channel (R125). -/
def shotOn (b : Block) (st : StationId) (ch : Nat) : Bool :=
  match b.maint with
  | .purging p =>
    p.station == st && p.channel == ch &&
      match p.phase with
      | .shot _ => true
      | .waiting => false
      | .gap _ => false
  | .calibrating c => c.station == st && c.channel == ch && c.shot.isSome
  | .idle => false
  | .suspended _ => false

/-! ### What station control tells the sequencer -/

/-- A channel became FAULTED: a purge shot on it ends and its gap follows; a calibration of it fails (R177, R180). -/
def maintenanceChannelFault (st : StationId) (ch : Nat) (b : Block) : Block :=
  match b.maint with
  | .purging p => if shotOn b st ch then b.setMaint (.purging { p with phase := .gap b.clock }) else b
  | .calibrating c => if c.station = st ∧ c.channel = ch then endCalibration .failed 0 c b else b
  | .idle => b
  | .suspended _ => b

/-- A station leaves ARMED: a purge or a calibration on it is abandoned (R115, R178, R180). -/
def abandonMaintenance (st : StationId) (b : Block) : Block :=
  match b.maint with
  | .purging p => if p.station = st then endPurge .abandoned p b else b
  | .suspended p => if p.station = st then endPurge .abandoned p b else b
  | .calibrating c => if c.station = st then endCalibration .abandoned 0 c b else b
  | .idle => b

end Sys2Proof.Machine
end

