-- ==== Sys2Proof/Machine/StationOps.lean ====
section
/-! DEFINITION. Station control's operations (chapter 7 sections 2 and 3) and the two stops of the line built on them
(chapter 8 sections 4 and 5). -/

namespace Sys2Proof.Machine

/-! ### Changes of station state (R113 to R116) -/

/-- A channel with its timer idle and its counter 0, its fault kept (R115). -/
def Channel.quiet (ch : Channel) : Channel := { ch with confirm := none, stuck := 0, lastOn := none }

/-- A station becomes ARMED: its counters start at 0, its timers are idle, and a NOTICE is queued (R113). -/
def becomeArmed (st : StationId) (b : Block) : Block :=
  let x := b.station st
  stationNotice st x.state .armed .settle 0
    (b.setStation st { x with state := .armed, settle := none, channels := x.channels.map Channel.quiet })

/-- A station that is not ARMED becomes DISARMED: no hold is set (R114). -/
def becomeDisarmed (st : StationId) (cause : StationCause) (b : Block) : Block :=
  let x := b.station st
  stationNotice st x.state .disarmed cause 0
    (b.setStation st { x with state := .disarmed, settle := none, enable := false })

/-- The station itself as it leaves ARMED: timers stopped, counters 0, enable line deasserted (R115). -/
def Station.left (new : StationState) (x : Station) : Station :=
  { x with state := new, enable := false, settle := none, channels := x.channels.map Channel.quiet }

/-- A station leaves ARMED (R115): its entries and slots are withdrawn and finished records retire; the holds are set
and counted; maintenance on it is abandoned; its timers, counters and enable line go; its NOTICE carries the hold
count. The records a station fault's refresh finished retire at the end of that refresh (log 17). -/
def leaveArmed (st : StationId) (new : StationState) (cause : StationCause) (b : Block) : Block :=
  let withdrawn := withdrawStation st b
  let retired := if new = .faulted then withdrawn else retireFinished withdrawn
  let held := abandonMaintenance st (setHolds st retired)
  stationNotice st .armed new cause (holdCount st held) (held.setStation st ((held.station st).left new))

/-- A station is taken to DISARMED by DISARM, HALT or FAULT (R114, R115). -/
def disarmStation (cause : StationCause) (b : Block) (st : StationId) : Block :=
  match (b.station st).state with
  | .armed => leaveArmed st .disarmed cause b
  | .arming => becomeDisarmed st cause b
  | .faulted => becomeDisarmed st cause b
  | .disarmed => b

/-! ### Stopping the line (R140, R143) -/

/-- Every station to DISARMED in station order, then the flush (R140, R143). -/
def stopStations (cause : StationCause) (b : Block) : Block := flush (allStations.foldl (disarmStation cause) b)

/-- HALT stops the line (R140). -/
def haltLine (b : Block) : Block := enterLine .halt .halt (stopStations .halt b)

/-- The cause of the line's change for a fault cause. -/
def FaultCause.lineCause (f : FaultCause) : LineCause :=
  match f with
  | .overspeed => .overspeed
  | .reverse => .reverse
  | .chain => .chain
  | .none => .clearFault

/-- The line states in which a fault cause is taken (chapter 8 section 5). -/
def faultTaken (f : FaultCause) (l : LineState) : Bool :=
  match f, l with
  | .none, _ => false
  | _, .run => true
  | _, .draining => true
  | .chain, .standby => true
  | .chain, .halt => true
  | _, _ => false

/-- A fault cause is handed to line control (R143). -/
def lineFault (f : FaultCause) (b : Block) : Block :=
  if faultTaken f b.line.state then
    let stopped := stopStations .fault b
    enterLine .fault f.lineCause (stopped.setLine { stopped.line with fault := f })
  else b

/-! ### Channel faults (R120) -/

/-- The channel itself as it becomes FAULTED. -/
def Channel.fail (cause : ChannelFault) (ch : Channel) : Channel :=
  { ch with fault := some cause, confirm := none, stuck := 0 }

/-- The station's tally for a fault cause (R130). -/
def Station.tallyFault (cause : ChannelFault) (x : Station) : Station :=
  match cause with
  | .noConfirm => { x with noConfirm := bump x.noConfirm }
  | .stuck => { x with stuck := bump x.stuck }

/-- The entries of one channel, the ACTIVE one first (R107, R120). -/
def entriesOnChannel (l : List Entry) (ch : Nat) : List Entry :=
  let mine := l.filter fun e => e.channel == ch
  (mine.filter fun e => e.state.isActive) ++ mine.filter fun e => !e.state.isActive

/-- A channel becomes FAULTED (R120): cause and timer, entries and slots, tally, sequencer, NOTICE. -/
def channelFault (st : StationId) (ch : Nat) (cause : ChannelFault) (b : Block) : Block :=
  let marked := updateChannel st ch (Channel.fail cause) b
  let ended := (entriesOnChannel (marked.lists.get st) ch).foldl (endEntry st false SlotFlags.markDegraded) marked
  let tallied := ended.setStation st ((ended.station st).tallyFault cause)
  (maintenanceChannelFault st ch tallied).report (.channelNotice st ch cause)

end Sys2Proof.Machine
end

