-- ==== Sys2Proof/Machine/Line.lean ====
section
/-! DEFINITION. The requests to the line (chapters 1 and 8): LINE_RUN, LINE_STANDBY_DRAIN, LINE_STANDBY_FLUSH,
LINE_SET, CLEAR_FAULT, RESTART. -/

namespace Sys2Proof.Machine

/-! ### LINE (R136 to R138) -/

/-- A purge or a calibration is running, or a SAVE or a RESTORE is in progress (R136). -/
def workInProgress (b : Block) : Bool := b.maint != .idle || b.store.activity != .idle

/-- The line enters RUN, and the position unit makes its reverse check at the entry (R9, R136). Where that faults the line,
the NOTICE of RUN stands before everything the fault brings (log 41). -/
def enterRun (b : Block) : Block :=
  let entered := enterLine .run .lineRun b
  if b.settings.reverseLimit < b.pos.backlash then lineFault .reverse entered else entered

/-- LINE RUN (R136). -/
def orderRun (b : Block) : Block × Option Reply :=
  match b.line.state with
  | .standby => if workInProgress b then refuse .busy b else answer (enterRun b) []
  | .draining => answer (enterRun b) []
  | .run => answer b []
  | .halt => refuse .wrongState b
  | .fault => refuse .wrongState b
  | .startup => refuse .notReady b

/-- LINE STANDBY_DRAIN (R137). -/
def orderDrain (b : Block) : Block × Option Reply :=
  match b.line.state with
  | .run => answer (enterLine (if b.track.table = [] then .standby else .draining) .drain b) []
  | .draining => answer b []
  | .standby => refuse .wrongState b
  | .halt => refuse .wrongState b
  | .fault => refuse .wrongState b
  | .startup => refuse .notReady b

/-- LINE STANDBY_FLUSH (R138). -/
def orderFlush (b : Block) : Block × Option Reply :=
  match b.line.state with
  | .run => answer (enterLine .standby .flush (flush b)) []
  | .draining => answer (enterLine .standby .flush (flush b)) []
  | .standby => refuse .wrongState b
  | .halt => refuse .wrongState b
  | .fault => refuse .wrongState b
  | .startup => refuse .notReady b

/-- An order of the LINE request; a code that names none of the three is refused (R182). -/
def lineOrder (code : Nat) (act : Block → Block × Option Reply) (p : List Byte) (b : Block) :
    Block × Option Reply :=
  if field p 0 1 = code then act b else refuse .badArg b

/-- LINE_RUN (R136). -/
def execLineRun (s : State) : Host.Outcome State Fault Refusal :=
  serve (orderIs 0x10 0 3) (plainRequest 1 (lineOrder 0 orderRun)) s

/-- LINE_STANDBY_DRAIN (R137). -/
def execLineStandbyDrain (s : State) : Host.Outcome State Fault Refusal :=
  serve (orderIs 0x10 1 3) (plainRequest 1 (lineOrder 1 orderDrain)) s

/-- LINE_STANDBY_FLUSH (R138). -/
def execLineStandbyFlush (s : State) : Host.Outcome State Fault Refusal :=
  serve (orderIs 0x10 2 3) (plainRequest 1 (lineOrder 2 orderFlush)) s

/-! ### LINE SET (R5, R6, R8) -/

/-- The three line settings lie in their ranges (R6, chapter 2 section 4-1). -/
def lineSettingsOk (sliceLength staleLimit : Nat) : Bool :=
  1 ≤ sliceLength && sliceLength ≤ 256 && 1 ≤ staleLimit && staleLimit ≤ 16777215

/-- The position unit takes a new S and reverse limit: scan slice and reverse flag (R5, R8). -/
def PositionUnit.takeLimits (p : PositionUnit) (sliceLength reverseLimit : Nat) : PositionUnit :=
  { p with
    slice := p.x / sliceLength
    reverseFlag := reverseFlagAgainst p.reverseFlag p.backlash reverseLimit }

/-- The three settings are written together (R6). -/
def writeLineSettings (sliceLength reverseLimit staleLimit : Nat) (b : Block) : Block :=
  (b.setSettings
    { b.settings with sliceLength := sliceLength, reverseLimit := reverseLimit, staleLimit := staleLimit }).setPos
    (b.pos.takeLimits sliceLength reverseLimit)

/-- LINE SET's own checks (R6). -/
def ownLineSet (p : List Byte) (b : Block) : Block × Option Reply :=
  if b.line.state ≠ .standby then refuse .wrongState b
  else if lineSettingsOk (field p 0 2) (field p 4 3) then
    answer (writeLineSettings (field p 0 2) (field p 2 2) (field p 4 3) b) []
  else refuse .badArg b

/-- LINE_SET (R6). -/
def execLineSet (s : State) : Host.Outcome State Fault Refusal :=
  serve (kindIs 0x11) (editRequest 7 ownLineSet) s

/-! ### CLEAR FAULT (R144) -/

/-- CLEAR FAULT's own checks; accepted, it orders a census, during which no HALT has been asserted yet, and has no
reply yet (R144). -/
def ownClearFault (_ : List Byte) (b : Block) : Block × Option Reply :=
  if b.line.state ≠ .fault ∨ b.line.halt.taken = true then refuse .wrongState b
  else ((b.setChain { b.chain with census := true }).setLine { b.line with haltInCensus := false }, none)

/-- CLEAR_FAULT (R144). -/
def execClearFault (s : State) : Host.Outcome State Fault Refusal :=
  serve (kindIs 0x80) (plainRequest 0 ownClearFault) s

/-! ### RESTART (R147) -/

/-- RESTART's own check: a SAVE bars it. The reset begins when the reply OK has been sent (R147). -/
def ownRestart (_ : List Byte) (b : Block) : Block × Option Reply :=
  match b.store.activity with
  | .saving _ => refuse .busy b
  | .idle => answer b []
  | .restoring => answer b []

/-- RESTART (R147). -/
def execRestart (s : State) : Host.Outcome State Fault Refusal :=
  serve (kindIs 0x81) (plainRequest 0 ownRestart) s

end Sys2Proof.Machine
end

