-- ==== Sys2Proof/Machine/Resets.lean ====
section
/-! DEFINITION. Resets (chapter 8 section 6): POWER_ON, SUPPLY_DIP, RESET_LINE_ASSERT, RESET_LINE_RELEASE,
SUPPLY_RISES_ABOVE_RESET_THRESHOLD, RESET_END. -/

namespace Sys2Proof.Machine

/-! ### The start of a reset (R145, R146, R148) -/

/-- The cause is of the supply: the retained items are UNKNOWN, and the lock's copy is lost (R146, R176). -/
def ResetCause.bySupply (c : ResetCause) : Bool :=
  match c with
  | .powerOn => true
  | .supplyDip => true
  | .resetLine => false
  | .restartRequest => false

def StoreActivity.isSaving (a : StoreActivity) : Bool :=
  match a with
  | .saving _ => true
  | .idle => false
  | .restoring => false

/-- The record written where a reset begins (R146). -/
def newRecord (cause : ResetCause) (b : Block) : ResetRecord :=
  match cause with
  | .powerOn => ⟨.powerOn, none, none⟩
  | .supplyDip => ⟨.supplyDip, none, none⟩
  | .resetLine => ⟨.resetLine, some b.line.state, some b.store.activity.isSaving⟩
  | .restartRequest => ⟨.restartRequest, some b.line.state, some false⟩

/-- The record after a cause arrives: a cause of the supply always rewrites it, another only where it begins the
reset (R146). -/
def recordAfter (cause : ResetCause) (b : Block) : ResetRecord :=
  if b.running || cause.bySupply then newRecord cause b else b.line.record

/-- The causes that have arrived, and when the reset began (R145). A fall of the supply ends any time it stood above
the threshold. -/
def progressAfter (cause : ResetCause) (b : Block) : ResetProgress :=
  let p := b.resetting.getD ⟨b.clock, false, false, false, none⟩
  match cause with
  | .powerOn => { p with bySupply := true, supplyAbove := none }
  | .supplyDip => { p with bySupply := true, supplyAbove := none }
  | .resetLine => { p with byLine := true }
  | .restartRequest => { p with byRestart := true }

/-- The mode's retained copy: OPEN after a cause of the supply (R176). -/
def copyAfter (cause : ResetCause) (copy : LockMode) : LockMode := if cause.bySupply then .opened else copy

/-- An input at the start of a reset: no time is counted (R139). -/
def PlantFilter.held (f : PlantFilter) : PlantFilter := { f with since := none }

/-- Every block takes its values after every reset (R16, R34, R35, R44, R64, R73, R109, R131, R148, R168, R170, R176,
R180); what stands outside the controller, the stored image and the inputs' states are not touched. -/
def blankBlocks (record : ResetRecord) (copy : LockMode) (b : Block) : Block :=
  { b with
    pos := PositionUnit.afterReset
    intake := IntakeUnit.afterReset
    track := TrackUnit.afterReset
    lists := Four.all4 []
    ranks := initialRanks
    settings := Settings.factory
    stations := Four.all4 Station.afterReset
    chain := ChainUnit.afterReset
    line :=
      { state := .startup, fault := .none, settingsLost := false, halt := b.line.halt.held
        airLow := b.line.airLow.held, key := b.line.key.held, record := record, haltInCensus := false }
    msg := MessageUnit.afterReset
    store := { b.store with activity := .idle, loading := false, lock := copy, lockCopy := copy }
    maint := .idle }

/-- A cause of a reset arrives: it begins a reset, or extends the one in progress (R145). -/
def beginReset (cause : ResetCause) (b : Block) : Block :=
  (blankBlocks (recordAfter cause b) (copyAfter cause b.store.lockCopy) b).setResetting (some (progressAfter cause b))

/-- POWER_ON (R145). -/
def execPowerOn (s : State) : Host.Outcome State Fault Refusal := event s (beginReset .powerOn)

/-- SUPPLY_DIP (R145). -/
def execSupplyDip (s : State) : Host.Outcome State Fault Refusal := event s (beginReset .supplyDip)

/-- RESET_LINE_ASSERT (R145). -/
def execResetLineAssert (s : State) : Host.Outcome State Fault Refusal :=
  eventIf (!s.resetLine) s fun b => (beginReset .resetLine b).setResetLine true

/-- RESET_LINE_RELEASE (R145). -/
def execResetLineRelease (s : State) : Host.Outcome State Fault Refusal := event s fun b => b.setResetLine false

/-- The supply stands above the reset threshold from now on, unless it did before (R145). -/
def ResetProgress.supplyRises (now : Nat) (p : ResetProgress) : ResetProgress :=
  if p.bySupply && p.supplyAbove.isNone then { p with supplyAbove := some now } else p

/-- SUPPLY_RISES_ABOVE_RESET_THRESHOLD (R145). -/
def execSupplyRisesAboveResetThreshold (s : State) : Host.Outcome State Fault Refusal :=
  event s fun b => b.setResetting (b.resetting.map (ResetProgress.supplyRises b.clock))

/-! ### The end of a reset (R2, R102, R139, R145, R170) -/

/-- Every cause that has arrived would end the reset (R145). -/
def ResetProgress.over (p : ResetProgress) (b : Block) : Bool :=
  (!p.bySupply ||
    match p.supplyAbove with
    | none => false
    | some t => b.reached t Config.supplyStand) &&
    (!p.byLine || (!b.resetLine && b.reached p.began Config.resetMinimum)) &&
    (!p.byRestart || b.reached p.began Config.resetMinimum)

/-- A reset is in progress and may end (R145). -/
def resetOver (b : Block) : Bool :=
  match b.resetting with
  | none => false
  | some p => p.over b

/-- The reset ends: the time base is 0, the taken states are the levels, the load begins (R102, R139, R170). -/
def finishReset (b : Block) : Block :=
  let line := { b.line with halt := b.line.halt.takeLevel, airLow := b.line.airLow.takeLevel, key := b.line.key.takeLevel }
  (((b.setClock 0).setResetting none).setLine line).setStore { b.store with loading := true }

/-- RESET_END (R145). -/
def execResetEnd (s : State) : Host.Outcome State Fault Refusal := eventIf (resetOver s.toBlock) s finishReset

end Sys2Proof.Machine
end

