-- ==== Sys2Proof/Machine/Link.lean ====
section
/-! DEFINITION. The control link (chapter 9): CONTROL_BYTE, CONTROL_GAP_TIMEOUT, TRANSMIT_COMPLETE, UNKNOWN_KIND,
IDENTIFY, STATUS, TALLY_READ. -/

namespace Sys2Proof.Machine

/-! ### Receiver (R150 to R152) -/

/-- A frame is discarded; `count` increases the tally of the case (R151). -/
def discardControl (count : LinkTallies → LinkTallies) (m : MessageUnit) : MessageUnit :=
  { m with receiver := .seeking, tallies := count m.tallies }

def LinkTallies.lengthErrors (t : LinkTallies) : LinkTallies := { t with lengthError := bump t.lengthError }
def LinkTallies.byteErrors (t : LinkTallies) : LinkTallies := { t with byteError := bump t.byteError }
def LinkTallies.gapErrors (t : LinkTallies) : LinkTallies := { t with gapError := bump t.gapError }
def LinkTallies.checkErrors (t : LinkTallies) : LinkTallies := { t with checkError := bump t.checkError }

/-- A good frame is offered to the receive buffer (R152). -/
def offerFrame (f : Frame) (m : MessageUnit) : MessageUnit :=
  if m.buffer.length < Config.bufferCapacity then
    { m with
      receiver := .seeking
      buffer := m.buffer ++ [f]
      tallies := { m.tallies with frames := bump m.tallies.frames } }
  else
    { m with receiver := .seeking, tallies := { m.tallies with bufferFull := bump m.tallies.bufferFull } }

/-- The frame of its length, kind and payload bytes. -/
def frameOf (covered : List Byte) : Frame := ⟨(covered.drop 1).headD 0#8, covered.drop 2⟩

/-- A byte in IN_FRAME, with the bytes after the sync byte up to and including it (R150, R151). -/
def controlInFrame (now : Nat) (bytes : List Byte) (m : MessageUnit) : MessageUnit :=
  let len := field bytes 0 1
  if Config.largestPayload < len then discardControl LinkTallies.lengthErrors m
  else if bytes.length < len + 4 then { m with receiver := .inFrame bytes now }
  else if crcBytes (bytes.take (len + 2)) = bytes.drop (len + 2) then offerFrame (frameOf (bytes.take (len + 2))) m
  else discardControl LinkTallies.checkErrors m

/-- The receiver examines a byte (R150); one that comes after the gap finds the frame discarded (R151, log 9). A byte in
error is counted as that alone, whatever else its place in the frame would make it (log 40). -/
def examineControl (now : Nat) (v : Byte) (stopBit : Bool) (m : MessageUnit) : MessageUnit :=
  let w := if m.receiver.late Config.controlGap now then discardControl LinkTallies.gapErrors m else m
  match w.receiver with
  | .seeking => if stopBit && v == syncByte then { w with receiver := .inFrame [] now } else w
  | .inFrame bytes _ =>
    if stopBit then controlInFrame now (bytes ++ [v]) w else discardControl LinkTallies.byteErrors w

/-- CONTROL_BYTE (R150). -/
def execControlByte (v : Byte) (stopBit : Bool) (s : State) : Host.Outcome State Fault Refusal :=
  eventIf s.toBlock.running s fun b => b.setMsg (examineControl b.clock v stopBit b.msg)

/-- CONTROL_GAP_TIMEOUT (R151). -/
def execControlGapTimeout (s : State) : Host.Outcome State Fault Refusal :=
  eventIf (s.toBlock.running && s.msg.receiver.late Config.controlGap s.clock) s fun b =>
    b.setMsg (discardControl LinkTallies.gapErrors b.msg)

/-! ### Transmitter (R147, R156) -/

/-- The last byte of the frame being sent has left: 10 µs per byte have passed (R149). -/
def transmitDue (b : Block) : Bool :=
  b.running &&
    match b.msg.sending with
    | none => false
    | some x => b.reached x.start (Config.controlByteTime * x.bytes.length)

/-- The frame is sent; a reply ends its request in hand, and the reply to an accepted RESTART begins the reset
(R147, R153). -/
def finishSending (b : Block) : Block :=
  match b.msg.sending with
  | none => b
  | some x =>
    match x.role with
    | .report => b.setMsg { b.msg with sending := none }
    | .reply restart =>
      let ended := b.setMsg { b.msg with sending := none, inHand := none }
      if restart then beginReset .restartRequest ended else ended

/-- TRANSMIT_COMPLETE (R156). -/
def execTransmitComplete (s : State) : Host.Outcome State Fault Refusal :=
  eventIf (transmitDue s.toBlock) s finishSending

/-! ### Requests of chapter 9 sections 2 and 5 -/

/-- The request kinds (chapter 11 section 3). -/
def requestKinds : List Nat :=
  [0x01, 0x02, 0x10, 0x11, 0x20, 0x21, 0x22, 0x23, 0x24, 0x30, 0x31, 0x32, 0x33, 0x34, 0x35, 0x40, 0x41, 0x42, 0x43,
   0x50, 0x60, 0x61, 0x62, 0x70, 0x71, 0x80, 0x81]

/-- The kind names no request (R154). -/
def unknownFrame (f : Frame) : Bool := !requestKinds.contains f.kind.toNat

/-- Check 1 of R154 fails, and UNKNOWN is increased (R166). -/
def judgeUnknown (_ : List Byte) (b : Block) : Block × Option Reply :=
  refuse .unknownKind
    (b.setMsg { b.msg with tallies := { b.msg.tallies with unknown := bump b.msg.tallies.unknown } })

/-- UNKNOWN_KIND (R154). -/
def execUnknownKind (s : State) : Host.Outcome State Fault Refusal := serve unknownFrame judgeUnknown s

/-- IDENTIFY's items: "JT-460", hardware revision, buffer, queue, largest payload (R157). -/
def identifyItems : List Byte :=
  [0x4A#8, 0x54#8, 0x2D#8, 0x34#8, 0x36#8, 0x30#8] ++ byte (Config.hardwareRevision.val + 1) ++
    byte Config.bufferCapacity ++ byte Config.reportCapacity ++ byte Config.largestPayload

/-- A request without arguments that every line state answers (R154). -/
def always (items : Block → List Byte) (p : List Byte) (b : Block) : Block × Option Reply :=
  if p.isEmpty then answer b (items b) else refuse .badArg b

/-- IDENTIFY (R157). -/
def execIdentify (s : State) : Host.Outcome State Fault Refusal :=
  serve (kindIs 0x01) (always fun _ => identifyItems) s

/-- STATUS (R158). -/
def execStatus (s : State) : Host.Outcome State Fault Refusal := serve (kindIs 0x02) (always statusItems) s

/-- The tallies of a group as they stand, four bytes each. -/
def tallyBytes (l : List Nat) : List Byte := l.flatMap (le 4)

/-- A channel's byte in TALLY READ: its fault cause code, 0 where it is OK. -/
def Channel.code (ch : Channel) : Nat :=
  match ch.fault with
  | none => 0
  | some c => c.code

/-- A station's items (R130, R167). -/
def stationItems (b : Block) (st : StationId) : List Byte :=
  let x := b.station st
  let n := (b.config st).channels
  tallyBytes (b.track.outcomes.get st) ++ byte (b.settings.floors.get st).floor ++
    byte (b.settings.floors.get st).lowAir ++ byte (b.config st).kind.code ++ byte x.state.code ++
    byte (flagCode x.enable) ++ tallyBytes [x.noConfirm, x.stuck, x.cut] ++ byte n ++
    (List.range n).flatMap fun ch => byte (channelAt x.channels ch).code

/-- A station's outcome and fault tallies are set to 0 (R44, R130). -/
def clearStationTallies (st : StationId) (b : Block) : Block :=
  (b.setTrack { b.track with outcomes := b.track.outcomes.set st zeroOutcomes }).setStation st
    { b.station st with noConfirm := 0, stuck := 0, cut := 0 }

/-- Read a group's items, then clear its tallies where that is asked (R33, R167). -/
def readTallies (group : Nat) (clear : Bool) (b : Block) : Block × Option Reply :=
  let done (items : List Byte) (cleared : Block) : Block × Option Reply :=
    answer (if clear then cleared else b) (byte group ++ items)
  match group with
  | 0 => done (tallyBytes b.intake.tallies.toList) (b.setIntake { b.intake with tallies := IntakeTallies.zero })
  | 1 => done (tallyBytes b.msg.tallies.toList) (b.setMsg { b.msg with tallies := LinkTallies.zero })
  | n + 2 =>
    match stationOf n with
    | some st => done (stationItems b st) (clearStationTallies st b)
    | none => refuse .badArg b

/-- TALLY READ's own checks (R167, R182). -/
def ownTallyRead (p : List Byte) (b : Block) : Block × Option Reply :=
  match flagOf (field p 1 1) with
  | none => refuse .badArg b
  | some clear => readTallies (field p 0 1) clear b

/-- TALLY_READ (R167). -/
def execTallyRead (s : State) : Host.Outcome State Fault Refusal :=
  serve (kindIs 0x50) (plainRequest 2 ownTallyRead) s

end Sys2Proof.Machine
end

