-- ==== Sys2Proof/Machine/Stations.lean ====
section
/-! DEFINITION. The requests to stations (chapters 4 and 7): STATION_SET, ARM, DISARM, FLOOR, CLEAR_CHANNEL. -/

namespace Sys2Proof.Machine

/-- A request whose first byte is a station number; a number outside 0 to 3 is refused (R182). -/
def forStation (own : StationId → List Byte → Block → Block × Option Reply) (p : List Byte) (b : Block) :
    Block × Option Reply :=
  match stationOf (field p 0 1) with
  | none => refuse .badArg b
  | some st => own st p b

/-! ### STATION SET (R110, R111) -/

/-- The record shares an output with another station's range (R110). -/
def overlapsOther (b : Block) (st : StationId) (c : StationSettings) : Bool :=
  allStations.any fun other => other != st && rangesShare c (b.config other)

/-- Every channel of a station becomes OK, its timer idle and its counter 0 (R111, R132). -/
def clearChannels (st : StationId) (b : Block) : Block :=
  b.setStation st { b.station st with channels := List.replicate 64 Channel.ok }

/-- The twelve settings are replaced together (R111). -/
def writeStation (st : StationId) (c : StationSettings) (b : Block) : Block :=
  clearChannels st (b.setSettings { b.settings with stations := b.settings.stations.set st c })

/-- STATION SET's own checks (R110). -/
def ownStationSet (st : StationId) (p : List Byte) (b : Block) : Block × Option Reply :=
  if (b.station st).state ≠ .disarmed then refuse .wrongState b
  else
    match stationSettingsOf (p.drop 1) with
    | none => refuse .badArg b
    | some c =>
      if !stationSettingsOk c || overlapsOther b st c then refuse .badArg b else answer (writeStation st c b) []

/-- STATION_SET (R110, R111). -/
def execStationSet (s : State) : Host.Outcome State Fault Refusal :=
  serve (kindIs 0x20) (editRequest 23 (forStation ownStationSet)) s

/-! ### ARM (R112, R113) -/

/-- The chain range lies inside the boards counted at the last census (R112). -/
def insideBoards (c : StationSettings) (boards : Nat) : Bool := c.firstOutput + c.channels - 1 < 32 * boards

/-- The station becomes ARMING; a settle time of 0 expires at once (R112, R113). -/
def startArming (st : StationId) (b : Block) : Block :=
  let x := b.station st
  let arming := stationNotice st x.state .arming .arm 0
    (b.setStation st { x with state := .arming, enable := true, settle := some b.clock })
  if (b.config st).settleTime = 0 then becomeArmed st arming else arming

/-- ARM's own checks, in the order of R112. -/
def ownArm (st : StationId) (_ : List Byte) (b : Block) : Block × Option Reply :=
  if b.line.state = .halt ∨ b.line.state = .fault then refuse .wrongState b
  else
    match (b.station st).state with
    | .arming => answer b []
    | .armed => answer b []
    | .faulted => refuse .wrongState b
    | .disarmed =>
      if (b.config st).kind = .none ∨ allFaulted b st = true then refuse .wrongState b
      else if insideBoards (b.config st) b.chain.boards then answer (startArming st b) []
      else refuse .noBoard b

/-- ARM (R112). -/
def execArm (s : State) : Host.Outcome State Fault Refusal :=
  serve (kindIs 0x21) (plainRequest 1 (forStation ownArm)) s

/-! ### DISARM (R114) -/

/-- DISARM is answered OK in every state of the station (R114); a drain may end by it (R137). -/
def ownDisarm (st : StationId) (_ : List Byte) (b : Block) : Block × Option Reply :=
  answer (drainDone (disarmStation .disarm b st)) []

/-- DISARM (R114). -/
def execDisarm (s : State) : Host.Outcome State Fault Refusal :=
  serve (kindIs 0x22) (plainRequest 1 (forStation ownDisarm)) s

/-! ### FLOOR (R68) -/

/-- FLOOR's own checks (R68). -/
def ownFloor (st : StationId) (p : List Byte) (b : Block) : Block × Option Reply :=
  if field p 1 1 ≤ 15 ∧ field p 2 1 ≤ 15 then
    answer
      (b.setSettings { b.settings with floors := b.settings.floors.set st ⟨field p 1 1, field p 2 1⟩ }) []
  else refuse .badArg b

/-- FLOOR (R68). -/
def execFloor (s : State) : Host.Outcome State Fault Refusal :=
  serve (kindIs 0x23) (plainRequest 3 (forStation ownFloor)) s

/-! ### CLEAR CHANNEL (R122) -/

/-- A FAULTED channel becomes OK, its counter 0 and its timer idle; an OK channel is not changed (R122). -/
def Channel.cleared (ch : Channel) : Channel :=
  match ch.fault with
  | none => ch
  | some _ => { ch with fault := none, confirm := none, stuck := 0 }

/-- The channel is cleared, and a FAULTED station with an OK channel becomes DISARMED (R122). -/
def clearChannel (st : StationId) (ch : Nat) (b : Block) : Block :=
  let cleared := updateChannel st ch Channel.cleared b
  if (b.station st).state = .faulted ∧ allFaulted cleared st = false then
    becomeDisarmed st .clearChannel cleared
  else cleared

/-- CLEAR CHANNEL's own checks (R122). -/
def ownClearChannel (st : StationId) (p : List Byte) (b : Block) : Block × Option Reply :=
  if field p 1 1 < (b.config st).channels then answer (clearChannel st (field p 1 1) b) [] else refuse .badArg b

/-- CLEAR_CHANNEL (R122). -/
def execClearChannel (s : State) : Host.Outcome State Fault Refusal :=
  serve (kindIs 0x24) (plainRequest 2 (forStation ownClearChannel)) s

end Sys2Proof.Machine
end

