-- ==== Sys2Proof/Machine/Maintenance.lean ====
section
/-! DEFINITION. Maintenance runs (chapter 10 sections 5 and 6): PURGE_START, PURGE_SUSPEND, PURGE_RESUME, PURGE_ABORT,
PURGE_SHOT_END, PURGE_GAP_END, CALIBRATE. -/

namespace Sys2Proof.Machine

/-! ### PURGE (R177, R178) -/

/-- PURGE is judged by its own checks from the length on (R177). -/
def purgeRequest (own : List Byte → Block → Block × Option Reply) : List Byte → Block → Block × Option Reply :=
  judged (fun _ _ => true) (fun _ => false) own

/-- A PURGE order whose payload is the order alone; any other payload is refused (R177). -/
def purgeOrder (code : Nat) (act : Block → Block × Option Reply) (p : List Byte) (b : Block) :
    Block × Option Reply :=
  if p.length = 1 ∧ field p 0 1 = code then act b else refuse .badArg b

/-- On-time and gap 1 to 500 ms, cycles 1 to 16 (R177). -/
def purgeArgsOk (onTime gap cycles : Nat) : Bool :=
  1 ≤ onTime && onTime ≤ 500 && 1 ≤ gap && gap ≤ 500 && 1 ≤ cycles && cycles ≤ 16

/-- PURGE start on a station, after the range checks (R177). -/
def startPurge (p : Purge) (b : Block) : Block × Option Reply :=
  if b.maint ≠ .idle then refuse .busy b
  else if b.line.state ≠ .standby ∨ (b.station p.station).state ≠ .armed then refuse .wrongState b
  else answer (takeInHand .purging p 1 0 b) []

/-- PURGE start's own checks (R177). -/
def ownPurgeStart (p : List Byte) (b : Block) : Block × Option Reply :=
  if p.length = 7 ∧ field p 0 1 = 0 then
    match stationOf (field p 1 1) with
    | none => refuse .badArg b
    | some st =>
      if purgeArgsOk (field p 2 2) (field p 4 2) (field p 6 1) then
        startPurge
          { station := st, onTime := field p 2 2, gap := field p 4 2, cycles := field p 6 1, cycle := 1, channel := 0
            phase := .waiting } b
      else refuse .badArg b
  else refuse .badArg b

/-- PURGE_START (R177). -/
def execPurgeStart (s : State) : Host.Outcome State Fault Refusal :=
  serve (orderIs 0x70 0 4) (purgeRequest ownPurgeStart) s

/-- SUSPEND: a shot is broken off and its channel kept in hand; in a gap the next channel is taken in hand without
waiting (R178). That a channel which still waits for its shot is kept, and that a gap with no OK channel left completes the
purge with DONE OK, are the model's readings (log 22). -/
def suspendPurge (p : Purge) (b : Block) : Block :=
  match p.phase with
  | .waiting => b.setMaint (.suspended p)
  | .shot _ => b.setMaint (.suspended { p with phase := .waiting })
  | .gap _ => takeInHand .suspended p p.cycle (p.channel + 1) b

/-- PURGE SUSPEND (R178). -/
def orderSuspend (b : Block) : Block × Option Reply :=
  match b.maint with
  | .purging p => answer (suspendPurge p b) []
  | .suspended _ => answer b []
  | .idle => refuse .wrongState b
  | .calibrating _ => refuse .wrongState b

/-- PURGE_SUSPEND (R178). -/
def execPurgeSuspend (s : State) : Host.Outcome State Fault Refusal :=
  serve (orderIs 0x70 1 4) (purgeRequest (purgeOrder 1 orderSuspend)) s

/-- PURGE RESUME: the channel in hand gets a new shot (R178); that one which has become FAULTED is passed over (R177), and
that the purge is complete where none is left, are the model's readings (log 22). -/
def orderResume (b : Block) : Block × Option Reply :=
  match b.maint with
  | .purging _ => answer b []
  | .suspended p => answer (takeInHand .purging p p.cycle p.channel b) []
  | .idle => refuse .wrongState b
  | .calibrating _ => refuse .wrongState b

/-- PURGE_RESUME (R178). -/
def execPurgeResume (s : State) : Host.Outcome State Fault Refusal :=
  serve (orderIs 0x70 2 4) (purgeRequest (purgeOrder 2 orderResume)) s

/-- PURGE ABORT (R178). -/
def orderAbort (b : Block) : Block × Option Reply :=
  match b.maint with
  | .purging p => answer (endPurge .aborted p b) []
  | .suspended p => answer (endPurge .aborted p b) []
  | .idle => refuse .wrongState b
  | .calibrating _ => refuse .wrongState b

/-- PURGE_ABORT (R178). -/
def execPurgeAbort (s : State) : Host.Outcome State Fault Refusal :=
  serve (orderIs 0x70 3 4) (purgeRequest (purgeOrder 3 orderAbort)) s

/-! ### The times of a purge (R177) -/

/-- The shot in progress has lasted the on-time, in ms (R177). -/
def shotDone (b : Block) : Option Purge :=
  match b.maint with
  | .purging p =>
    match p.phase with
    | .shot t => if b.reached t (p.onTime * 1000) then some p else none
    | .waiting => none
    | .gap _ => none
  | .idle => none
  | .suspended _ => none
  | .calibrating _ => none

/-- The gap in progress has run, in ms (R177). -/
def gapDone (b : Block) : Option Purge :=
  match b.maint with
  | .purging p =>
    match p.phase with
    | .gap t => if b.reached t (p.gap * 1000) then some p else none
    | .waiting => none
    | .shot _ => none
  | .idle => none
  | .suspended _ => none
  | .calibrating _ => none

/-- The shot ends, and the gap runs (R177). -/
def endShot (b : Block) : Block :=
  match shotDone b with
  | none => b
  | some p => b.setMaint (.purging { p with phase := .gap b.clock })

/-- The gap ends, and the next channel is taken in hand (R177). -/
def endGap (b : Block) : Block :=
  match gapDone b with
  | none => b
  | some p => takeInHand .purging p p.cycle (p.channel + 1) b

/-- PURGE_SHOT_END (R177). -/
def execPurgeShotEnd (s : State) : Host.Outcome State Fault Refusal :=
  eventIf (s.toBlock.running && (shotDone s.toBlock).isSome) s endShot

/-- PURGE_GAP_END (R177). -/
def execPurgeGapEnd (s : State) : Host.Outcome State Fault Refusal :=
  eventIf (s.toBlock.running && (gapDone s.toBlock).isSome) s endGap

/-! ### CALIBRATE (R179) -/

/-- CALIBRATE's own checks (R179). -/
def ownCalibrate (st : StationId) (p : List Byte) (b : Block) : Block × Option Reply :=
  let ch := field p 1 1
  if (b.config st).channels ≤ ch then refuse .badArg b
  else if b.maint ≠ .idle then refuse .busy b
  else if b.line.state ≠ .standby ∨ (b.station st).state ≠ .armed ∨ channelOk b st ch = false then
    refuse .wrongState b
  else
    answer
      (b.setMaint (.calibrating { station := st, channel := ch, delays := [], lastStart := none, shot := none })) []

/-- CALIBRATE (R179). -/
def execCalibrate (s : State) : Host.Outcome State Fault Refusal :=
  serve (kindIs 0x71) (plainRequest 2 (forStation ownCalibrate)) s

end Sys2Proof.Machine
end

