-- ==== Sys2Proof/Machine/Particles.lean ====
section
/-! DEFINITION. The requests on records and lists (chapters 3 and 6): CANCEL, AMEND, TRACK_QUERY, LIST_READ. -/

namespace Sys2Proof.Machine

/-- A request whose first two bytes are the tag of a record in the table (R46, R48, R51). -/
def forRecord (own : ParticleRecord → Block → Block × Option Reply) (p : List Byte) (b : Block) :
    Block × Option Reply :=
  match findRecord (field p 0 2) b.track.table with
  | none => refuse .notFound b
  | some r => own r b

/-- The event's retirements, and the end of a drain they may bring (R42, R137). -/
def settleRecords (b : Block) : Block := drainDone (retireFinished b)

/-! ### CANCEL (R46) -/

/-- What CANCEL does to one slot (R46). -/
def Slot.cancel (sl : Slot) : Slot :=
  match sl.state with
  | .waiting => sl.ended .cancelled
  | .committed => sl.ended .cancelled
  | .active => sl
  | .final _ => sl

/-- CANCEL at one station: the tag of a COMMITTED slot is withdrawn from the list (R46, R104). -/
def cancelAt (tag : Nat) (b : Block) (st : StationId) : Block :=
  match findSlot tag st b.track.table with
  | none => b
  | some sl =>
    let listed :=
      if sl.state = .committed then b.setList st (withdrawTags b.track.table [tag] (b.lists.get st)) else b
    listed.setTable (updateSlot tag st Slot.cancel b.track.table)

/-- The record has an ACTIVE slot. -/
def ParticleRecord.anyActive (r : ParticleRecord) : Bool :=
  r.slots.toList.any fun o =>
    match o with
    | none => false
    | some sl => sl.state == .active

/-- CANCEL of a record in the table (R46). -/
def cancelRecord (r : ParticleRecord) (b : Block) : Block × Option Reply :=
  (settleRecords (allStations.foldl (cancelAt r.tag) b), some ⟨if r.anyActive then .tooLate else .ok, []⟩)

/-- CANCEL (R46). -/
def execCancel (s : State) : Host.Outcome State Fault Refusal :=
  serve (kindIs 0x40) (plainRequest 2 (forRecord cancelRecord)) s

/-! ### AMEND (R48 to R50) -/

/-- The slot does not bar an AMEND: WAITING or NOT_CHOSEN (R48). -/
def Slot.amendable (sl : Slot) : Bool :=
  match sl.state with
  | .waiting => true
  | .final o => o == .notChosen
  | .committed => false
  | .active => false

def ParticleRecord.amendable (r : ParticleRecord) : Bool :=
  r.slots.toList.all fun o =>
    match o with
    | none => true
    | some sl => sl.amendable

/-- The record ends: every slot CANCELLED, the class the new one (R49). -/
def ParticleRecord.amendedAway (cls : Nat) (r : ParticleRecord) : ParticleRecord :=
  { r with cls := cls, slots := r.slots.map fun o => o.map (Slot.ended .cancelled) }

/-- The record rebuilt in place from the new class's entry (R50). -/
def ParticleRecord.rebuilt (cls : Nat) (e : RouteEntry) (slots : Four (Option Slot)) (r : ParticleRecord) :
    ParticleRecord :=
  { r with
    cls := cls, action := e.action, priority := e.priority, pattern := e.pattern, delivery := e.delivery
    report := e.report, slots := slots }

/-- The rebuild with its choice and the commits already due (R50). -/
def rebuildRecord (cls : Nat) (e : RouteEntry) (r : ParticleRecord) (b : Block) : Block :=
  let made := createSlots b e r.position
  commitDueSlots r.tag
    ((b.setRanks made.2).setTable (updateRecord r.tag (ParticleRecord.rebuilt cls e made.1) b.track.table))

/-- An AMEND of a record in the table (R48). -/
def amendRecord (cls : Nat) (r : ParticleRecord) (b : Block) : Block × Option Reply :=
  if !r.amendable then refuse .tooLate b
  else
    match routeTest (b.route cls) r.confidence with
    | some d =>
      answer
        (settleRecords (b.setTable (updateRecord r.tag (ParticleRecord.amendedAway cls) b.track.table)))
        (byte d.code)
    | none => answer (settleRecords (rebuildRecord cls (b.route cls) r b)) (byte Disposition.admitted.code)

/-- AMEND's own checks: the class, then the record (R48). -/
def ownAmend (p : List Byte) (b : Block) : Block × Option Reply :=
  if field p 2 1 ≤ 63 then forRecord (amendRecord (field p 2 1)) p b else refuse .badArg b

/-- AMEND (R48). -/
def execAmend (s : State) : Host.Outcome State Fault Refusal := serve (kindIs 0x41) (plainRequest 3 ownAmend) s

/-! ### TRACK QUERY (R51) -/

/-- TRACK_QUERY (R51). -/
def execTrackQuery (s : State) : Host.Outcome State Fault Refusal :=
  serve (kindIs 0x42) (plainRequest 2 (forRecord fun r b => answer b (recordBytes r))) s

/-! ### LIST READ (R108) -/

/-- LIST READ's own checks and reply (R108). -/
def ownListRead (st : StationId) (p : List Byte) (b : Block) : Block × Option Reply :=
  let start := field p 1 2
  let l := b.lists.get st
  if start ≤ 767 then
    answer b (le 2 l.length ++ le 2 start ++ ((l.drop start).take 8).flatMap (entryBytes b.clock))
  else refuse .badArg b

/-- LIST_READ (R108). -/
def execListRead (s : State) : Host.Outcome State Fault Refusal :=
  serve (kindIs 0x43) (plainRequest 3 (forStation ownListRead)) s

end Sys2Proof.Machine
end

