-- ==== Sys2Proof/Machine/Plant.lean ====
section
/-! DEFINITION. The plant inputs (chapter 8 section 4): PLANT_INPUT_LEVEL_CHANGE, HALT_ASSERTION, HALT_RELEASE,
AIR_LOW_CHANGE, KEY_CHANGE. -/

namespace Sys2Proof.Machine

/-! ### Levels (R139) -/

/-- Whether a current in the isolator asserts the input (chapter 11 section 8). -/
def assertedBy (input : PlantInput) (current : Bool) : Bool :=
  match input with
  | .halt => !current
  | .airLow => !current
  | .key => current

/-- The level of an input changes: the time starts where it now differs from the taken state; without a change, and
during a reset, no time is counted (R139, log 26). -/
def PlantFilter.levelChange (counting : Bool) (now : Nat) (level : Bool) (f : PlantFilter) : PlantFilter :=
  if level = f.level then f
  else { f with level := level, since := if counting && level != f.taken then some now else none }

/-- The new level has stood for 1,000 µs (R139). -/
def PlantFilter.due (f : PlantFilter) (b : Block) : Bool :=
  b.running && f.level != f.taken &&
    match f.since with
    | none => false
    | some t => b.reached t Config.inputFilter

/-- Change the filter of one input. -/
def onInput (input : PlantInput) (f : PlantFilter → PlantFilter) (b : Block) : Block :=
  match input with
  | .halt => b.setLine { b.line with halt := f b.line.halt }
  | .airLow => b.setLine { b.line with airLow := f b.line.airLow }
  | .key => b.setLine { b.line with key := f b.line.key }

/-- PLANT_INPUT_LEVEL_CHANGE (R139). -/
def execPlantInputLevelChange (input : PlantInput) (current : Bool) (s : State) :
    Host.Outcome State Fault Refusal :=
  event s fun b => onInput input (PlantFilter.levelChange b.running b.clock (assertedBy input current)) b

/-! ### Changes of the taken states (R140 to R142) -/

/-- An assertion of HALT acts in STANDBY, RUN and DRAINING (R140, R141, R135). -/
def haltActs (l : LineState) : Bool := l == .standby || l == .run || l == .draining

/-- An assertion of HALT while the census of CLEAR FAULT runs is kept for its end, released again or not (R144). -/
def LineControl.noteHalt (census : Bool) (l : LineControl) : LineControl :=
  { l with haltInCensus := l.haltInCensus || (census && l.state == .fault) }

/-- The taken assertion of HALT (R140, R144). -/
def assertHalt (b : Block) : Block :=
  let taken := onInput .halt PlantFilter.takeLevel b
  if haltActs b.line.state then haltLine taken else taken.setLine (taken.line.noteHalt b.chain.census)

/-- HALT_ASSERTION (R140). -/
def execHaltAssertion (s : State) : Host.Outcome State Fault Refusal :=
  eventIf (s.line.halt.due s.toBlock && s.line.halt.level) s assertHalt

/-- The taken release of HALT (R141). -/
def releaseHalt (b : Block) : Block :=
  let taken := onInput .halt PlantFilter.takeLevel b
  if b.line.state = .halt then enterLine .standby .haltRelease taken else taken

/-- HALT_RELEASE (R141). -/
def execHaltRelease (s : State) : Host.Outcome State Fault Refusal :=
  eventIf (s.line.halt.due s.toBlock && !s.line.halt.level) s releaseHalt

/-- AIR_LOW_CHANGE (R142). -/
def execAirLowChange (s : State) : Host.Outcome State Fault Refusal :=
  eventIf (s.line.airLow.due s.toBlock) s (onInput .airLow PlantFilter.takeLevel)

/-- KEY_CHANGE (R142). -/
def execKeyChange (s : State) : Host.Outcome State Fault Refusal :=
  eventIf (s.line.key.due s.toBlock) s (onInput .key PlantFilter.takeLevel)

end Sys2Proof.Machine
end

