-- ==== Sys2Proof/Machine/Refresh.lean ====
section
/-! DEFINITION. The refresh (chapter 7 section 5-2): what is sent, the check of the marker, and station control's steps
on what comes back. -/

namespace Sys2Proof.Machine

/-! ### What a refresh sends (R125) -/

/-- A channel's output is on: its station ARMED, the channel OK, and an ACTIVE EJECT entry in RUN or DRAINING or a
maintenance shot in STANDBY (R125). -/
def channelDriven (b : Block) (st : StationId) (ch : Nat) : Bool :=
  (b.station st).state == .armed && channelOk b st ch &&
    match b.line.state with
    | .run => commanded (b.lists.get st) ch
    | .draining => commanded (b.lists.get st) ch
    | .standby => shotOn b st ch
    | .startup => false
    | .halt => false
    | .fault => false

/-- The chain output lies in the chain range of the station; kind NONE has none (R110, R125). -/
def ownsOutput (c : StationSettings) (output : Nat) : Bool :=
  c.kind != .none && c.firstOutput ≤ output && output < c.firstOutput + c.channels

/-- The state of one chain output (R125). -/
def outputState (b : Block) (output : Nat) : Bool :=
  output < 32 * b.chain.boards &&
    allStations.any fun st =>
      ownsOutput (b.config st) output && channelDriven b st (output - (b.config st).firstOutput)

/-- The 128 output states (R125). -/
def outputStates (b : Block) : List Bool := (List.range 128).map (outputState b)

/-- The state sent or brought back for a channel of a station. -/
def channelState (states : List Bool) (c : StationSettings) (ch : Nat) : Bool := states.getD (c.firstOutput + ch) false

/-- Each channel of an ARMED station whose output this refresh sends on is marked with its time (R119). -/
def markSent (b : Block) (st : StationId) : Block :=
  if (b.station st).state = .armed then
    ((channelNumbers b st).filter (channelState b.chain.outputs (b.config st))).foldl
      (fun acc ch => updateChannel st ch (fun c => { c with lastOn := some acc.clock }) acc) b
  else b

/-! ### The marker (R128) -/

/-- Eight on followed by eight off (chapter 7 section 5-1). -/
def chainMarker : List Bool := List.replicate 8 true ++ List.replicate 8 false

/-- The marker came back whole directly after the feedback states (R128). -/
def markerWhole (boards : Nat) (ret : List Bool) : Bool := (ret.drop (32 * boards)).take 16 == chainMarker

/-- The 128 feedback states of a sound refresh (R127). -/
def feedbackOf (boards : Nat) (ret : List Bool) : List Bool :=
  ret.take (32 * boards) ++ List.replicate (128 - 32 * boards) false

/-! ### Station control's steps (R127) -/

/-- The confirmed flag is set in the ACTIVE EJECT entries of a channel (R117). -/
def Entry.confirm (ch : Nat) (e : Entry) : Entry :=
  if e.drives ch then
    match e.state with
    | .active start _ => { e with state := .active start true }
    | .committed => e
  else e

/-- One channel's confirm timer is examined (R117, R118). -/
def confirmCheck (st : StationId) (b : Block) (ch : Nat) : Block :=
  match (channelAt (b.station st).channels ch).confirm with
  | none => b
  | some start =>
    if (b.config st).confirmWindow < b.clock - start then channelFault st ch .noConfirm b
    else if channelState b.chain.feedback (b.config st) ch then
      updateChannel st ch (fun c => { c with confirm := none })
        (b.setList st ((b.lists.get st).map (Entry.confirm ch)))
    else b

/-- The entry is an ACTIVE EJECT entry older than the max on time (R123). -/
def Entry.overTime (now maxOnTime : Nat) (e : Entry) : Bool :=
  match e.kind, e.state with
  | .eject, .active start _ => maxOnTime < now - start
  | .eject, .committed => false
  | .shield, _ => false

/-- One entry is ended by the time limit (R123). -/
def cutEntry (st : StationId) (b : Block) (e : Entry) : Block :=
  let ended := endEntry st true SlotFlags.markCut b e
  ended.setStation st { ended.station st with cut := bump (ended.station st).cut }

/-- The time limit on the station's list (R123). -/
def timeLimit (st : StationId) (b : Block) : Block :=
  ((b.lists.get st).filter (Entry.overTime b.clock (b.config st).maxOnTime)).foldl (cutEntry st) b

/-- The three things that count a channel towards STUCK (R119). -/
def stuckCounts (b : Block) (st : StationId) (ch : Nat) : Bool :=
  channelState b.chain.feedback (b.config st) ch && !channelState b.chain.outputs (b.config st) ch &&
    match (channelAt (b.station st).channels ch).lastOn with
    | none => true
    | some t => (b.config st).confirmWindow < b.clock - t

/-- One channel's stuck counter is updated (R119). -/
def stuckCheck (st : StationId) (b : Block) (ch : Nat) : Block :=
  if channelOk b st ch then
    if stuckCounts b st ch then
      if (channelAt (b.station st).channels ch).stuck < 2 then
        updateChannel st ch (fun c => { c with stuck := c.stuck + 1 }) b
      else channelFault st ch .stuck b
    else updateChannel st ch (fun c => { c with stuck := 0 }) b
  else b

/-- The station faults where every channel is FAULTED (R121). -/
def stationFault (st : StationId) (b : Block) : Block :=
  if allFaulted b st then leaveArmed st .faulted .stationFault b else b

/-- Station control's steps for one station, if it is ARMED (R127). -/
def stationRefresh (b : Block) (st : StationId) : Block :=
  if (b.station st).state = .armed then
    let confirmed := (channelNumbers b st).foldl (confirmCheck st) b
    let limited := timeLimit st confirmed
    stationFault st ((channelNumbers b st).foldl (stuckCheck st) limited)
  else b

/-! ### The refresh (R126 to R128) -/

/-- No refresh is made in STARTUP or in a census (R126). -/
def refreshMade (b : Block) : Bool := b.started && !b.chain.census

/-- What a refresh sends, with the shots it begins and the restart of its timer. -/
def sendRefresh (b : Block) : Block :=
  let begun := beginShots b
  allStations.foldl markSent
    (begun.setChain { begun.chain with outputs := outputStates begun, refreshStart := some begun.clock })

/-- What a sound refresh brings back: feedback, station control's steps for stations 0 to 3 in turn, each with all its
reports (log 37), the calibration, retirement (R127). -/
def soundRefresh (before : Sequencer) (ret : List Bool) (sent : Block) : Block :=
  let stored := sent.setChain
    { sent.chain with feedback := feedbackOf sent.chain.boards ret, chainError := false }
  drainDone (retireFinished (calibrationStep before (allStations.foldl stationRefresh stored)))

/-- A refresh whose marker check fails: feedback discarded, chain error, CHAIN handed to line control (R128). -/
def failedRefresh (sent : Block) : Block :=
  lineFault .chain (sent.setChain { sent.chain with chainError := true })

/-- One refresh with the states that come back on the chain return (R127). -/
def refresh (ret : List Bool) (b : Block) : Block :=
  if refreshMade b then
    if markerWhole b.chain.boards ret then soundRefresh b.maint ret (sendRefresh b)
    else failedRefresh (sendRefresh b)
  else b

end Sys2Proof.Machine
end

