-- ==== Sys2Proof/Machine/Position.lean ====
section
/-! DEFINITION. The commands of the position unit (chapter 1): ENCODER_COUNT, SPEED_GATE_EXPIRY, BEACON. -/

namespace Sys2Proof.Machine

/-! ### Quadrature decoding (R1) -/

/-- The place of a pair of line states in the forward cycle (chapter 1 section 1-1). -/
def phaseOf (a b : Bool) : Nat :=
  match a, b with
  | false, false => 0
  | true, false => 1
  | true, true => 2
  | false, true => 3

/-- Forward, reverse, or not counted (R1). -/
def decodeCount (a b a' b' : Bool) : Option Bool :=
  match (phaseOf a' b' + 4 - phaseOf a b) % 4 with
  | 1 => some true
  | 3 => some false
  | _ => none

/-- N after a count; a count that would pass either end of its range gives a free value of the range (log 10). -/
def netAfter (n : Int) (forward : Bool) : Int :=
  let m := if forward then n + 1 else n - 1
  if -Config.netMax ≤ m ∧ m ≤ Config.netMax then m
  else ((Config.netBeyondRange m).val : Int) - Config.netMax

/-- The counted quantities after a count: N, X and, past STARTUP, the reverse flag against X − N, whatever its size (R1,
R3, R8, log 39). -/
def PositionUnit.count (p : PositionUnit) (forward started : Bool) (limit : Nat) : PositionUnit :=
  let n := netAfter p.n forward
  let x := max p.x n.toNat
  let backlash := ((x : Int) - n).toNat
  { p with
    n := n
    x := x
    reverseFlag := if started then reverseFlagAtCount p.reverseFlag (!forward) backlash limit else p.reverseFlag }

/-! ### Slice crossing (R4, R43, R76) -/

/-- The crossing to slice c: the four schedulers, the retirements of all four together with the end of a drain they
bring, then the refresh, whose reports so stand behind that drain's NOTICE (log 38). -/
def crossing (c : Nat) (ret : List Bool) (b : Block) : Block :=
  let sliced := b.setPos { b.pos with slice := c }
  refresh ret (drainDone (retireFinished (allStations.foldl (schedulerAtCrossing c) sliced)))

/-- A count has moved X to a whole multiple of S, after STARTUP (R4). -/
def crosses (started : Bool) (xBefore xAfter s : Nat) : Bool := started && xBefore < xAfter && xAfter % s == 0

/-- The line is in RUN or DRAINING, where OVERSPEED and REVERSE are taken (chapter 8 section 5). -/
def moving (l : LineState) : Bool := l == .run || l == .draining

/-- One count and what it brings (R1, R3, R4, R7 to R9). -/
def countOnce (forward : Bool) (ret : List Bool) (b : Block) : Block :=
  let p := b.pos.count forward b.started b.settings.reverseLimit
  let counted := b.setPos p
  let crossed :=
    if crosses b.started b.pos.x p.x b.settings.sliceLength then crossing (p.x / b.settings.sliceLength) ret counted
    else counted
  if !forward && b.started && b.settings.reverseLimit < p.backlash then lineFault .reverse crossed else crossed

/-- A change of the encoder lines (R1, R2). -/
def encoderChange (a b' : Bool) (ret : List Bool) (b : Block) : Block :=
  let moved := b.setEncoder a b'
  if b.running then
    match decodeCount b.encA b.encB a b' with
    | some forward => countOnce forward ret moved
    | none => moved
  else moved

/-- ENCODER_COUNT (R1). -/
def execEncoderCount (a b : Bool) (ret : List Bool) (s : State) : Host.Outcome State Fault Refusal :=
  event s (encoderChange a b ret)

/-! ### Speed gate (R10, R11) -/

/-- V from the net count over a gate (R10). -/
def speedOf (net : Int) : Nat := min net.toNat 65535

/-- The gate's expiry: V, the restart, and past STARTUP the overspeed comparison (R10, R11). -/
def gateExpiry (b : Block) : Block :=
  let v := speedOf (b.pos.n - b.pos.gateNet)
  let fast := overspeedAt v b.settings.sliceLength
  let gated := b.setPos
    { b.pos with
      v := v
      gateStart := b.clock
      gateNet := b.pos.n
      overspeed := if b.started then fast else b.pos.overspeed }
  if b.started && fast then lineFault .overspeed gated else gated

/-- SPEED_GATE_EXPIRY (R10). -/
def execSpeedGateExpiry (s : State) : Host.Outcome State Fault Refusal :=
  eventIf (s.toBlock.running && s.toBlock.reached s.pos.gateStart Config.gatePeriod) s gateExpiry

/-! ### Beacon (R12, R13) -/

/-- A beacon is sent with its contents as they stand, and its timer runs again (R12). -/
def sendBeacon (b : Block) : Block :=
  b.setPos
    { b.pos with beaconStart := some b.clock, beacon := some (beaconFrame b.pos.x b.pos.v b.line.state) }

/-- The beacon timer runs and 1,000 µs have passed (R13). -/
def beaconDue (b : Block) : Bool :=
  b.running &&
    match b.pos.beaconStart with
    | none => false
    | some t => b.reached t Config.beaconPeriod

/-- BEACON (R12). -/
def execBeacon (s : State) : Host.Outcome State Fault Refusal := eventIf (beaconDue s.toBlock) s sendBeacon

end Sys2Proof.Machine
end

