-- ==== Sys2Proof/Machine/Startup.lean ====
section
/-! DEFINITION. The load, the census, the refresh timer and the settle timers (chapters 7, 8 and 10): LOAD_END,
CENSUS_END, REFRESH_TIMER_EXPIRY, SETTLE_EXPIRY. -/

namespace Sys2Proof.Machine

/-! ### Load (R134, R170, R176) -/

/-- The settings with every hold flag off (R54, R170, R171). -/
def Settings.holdsOff (s : Settings) : Settings := { s with routes := s.routes.map fun e => { e with hold := false } }

/-- The mode in force and its retained copy (R175, R176). -/
def setLock (m : LockMode) (b : Block) : Block := b.setStore { b.store with lock := m, lockCopy := m }

/-- The lock mode after STARTUP (R176). -/
def lockAfterReset (cause : ResetCause) (before loaded : LockMode) : LockMode :=
  match cause with
  | .powerOn => loaded
  | .supplyDip => loaded
  | .resetLine => if before = .sealed then .sealed else loaded
  | .restartRequest => if before = .sealed then .sealed else loaded

/-- The load ends: settings, SETTINGS_LOST, lock; the census begins (R134, R170, R176). -/
def finishLoad (b : Block) : Block :=
  let loaded := if b.store.image.sound then b.store.image.contents.holdsOff else Settings.factory
  let mode := lockAfterReset b.line.record.cause b.store.lock loaded.defaultLock
  let settled := setLock mode
    ((b.setSettings loaded).setLine { b.line with settingsLost := !b.store.image.sound })
  (settled.setStore { settled.store with loading := false }).setChain { b.chain with census := true }

/-- LOAD_END (R170). -/
def execLoadEnd (s : State) : Host.Outcome State Fault Refusal :=
  eventIf (s.toBlock.running && s.store.loading) s finishLoad

/-! ### Census (R129, R134, R144) -/

/-- The number of states all sixteen trials found the marker after, where it is one of the five (R129). -/
def censusNumber (trials : List (Option Nat)) : Option Nat :=
  match trials with
  | some n :: rest =>
    if rest.length = 15 ∧ rest.all (fun t => t == some n) = true ∧ n % 32 = 0 ∧ n ≤ 128 then some n else none
  | none :: _ => none
  | [] => none

/-- The census ends: board count and result, and the refresh timer starts (R129). -/
def takeCensus (trials : List (Option Nat)) (b : Block) : Block :=
  let found := censusNumber trials
  b.setChain
    { b.chain with
      boards := (found.getD 0) / 32
      censusOk := found.isSome
      census := false
      refreshStart := some b.clock }

/-- What the position unit does at the end of STARTUP, but for the beacon (R5, R14). -/
def PositionUnit.afterStartup (p : PositionUnit) (s : Settings) : PositionUnit :=
  { p with
    slice := p.x / s.sliceLength
    reverseFlag := reverseFlagAgainst p.reverseFlag p.backlash s.reverseLimit }

/-- The state the line enters at the end of STARTUP (R134). -/
def stateAfterStartup (halt : Bool) : LineState := if halt then .halt else .standby

/-- STARTUP ends (R134): the position unit, the intake unit, START and the line NOTICE, the first beacon (R13). -/
def endStartup (b : Block) : Block :=
  let awake := (b.setPos (b.pos.afterStartup b.settings)).setIntake { b.intake with ready := true }
  let started := awake.report
    (.start b.line.record.cause b.line.settingsLost b.chain.boards b.chain.censusOk b.settings.partition)
  let entered := enterLine (stateAfterStartup b.line.halt.taken) .start started
  entered.setPos
    { entered.pos with
      beaconStart := some b.clock
      beacon := some (beaconFrame entered.pos.x entered.pos.v entered.line.state) }

/-- The reply to CLEAR FAULT is fixed and takes its place (R144, R153). -/
def replyClearFault (r : Reply) (b : Block) : Block := b.setMsg (placeReply 0x80#8 r b.msg)

/-- The end of the census that CLEAR FAULT ordered; HALT bars the clear where it is asserted, or has been during the
census (R144). -/
def endClearFault (b : Block) : Block :=
  let kept : FaultCause := if b.chain.censusOk then b.line.fault else .chain
  let refused (st : Status) : Block :=
    replyClearFault ⟨st, byte kept.code ++ byte b.chain.boards⟩ (b.setLine { b.line with fault := kept })
  if b.line.halt.taken || b.line.haltInCensus then refused .wrongState
  else if b.chain.censusOk then
    replyClearFault ⟨.ok, byte b.chain.boards⟩
      (enterLine .standby .clearFault (b.setLine { b.line with fault := .none }))
  else refused .noBoard

/-- The census ends in STARTUP or, ordered by CLEAR FAULT, in FAULT (R129). -/
def finishCensus (trials : List (Option Nat)) (b : Block) : Block :=
  let counted := takeCensus trials b
  match b.line.state with
  | .startup => endStartup counted
  | .fault => endClearFault counted
  | .standby => counted
  | .run => counted
  | .draining => counted
  | .halt => counted

/-- CENSUS_END (R129). -/
def execCensusEnd (trials : List (Option Nat)) (s : State) : Host.Outcome State Fault Refusal :=
  eventIf (s.toBlock.running && s.chain.census) s (finishCensus trials)

/-! ### Refresh timer (R126) -/

/-- 100 µs have passed since the last refresh, and refreshes are made (R126). -/
def refreshDue (b : Block) : Bool :=
  refreshMade b &&
    match b.chain.refreshStart with
    | none => false
    | some t => b.reached t Config.refreshPeriod

/-- REFRESH_TIMER_EXPIRY (R126). -/
def execRefreshTimerExpiry (ret : List Bool) (s : State) : Host.Outcome State Fault Refusal :=
  eventIf (refreshDue s.toBlock) s (refresh ret)

/-! ### Settle timers (R113) -/

/-- The settle time of an ARMING station has passed (R113). -/
def settleDue (st : StationId) (b : Block) : Bool :=
  b.running && (b.station st).state == .arming &&
    match (b.station st).settle with
    | none => false
    | some t => b.reached t ((b.config st).settleTime * 1000)

/-- SETTLE_EXPIRY (R113). -/
def execSettleExpiry (st : StationId) (s : State) : Host.Outcome State Fault Refusal :=
  eventIf (settleDue st s.toBlock) s (becomeArmed st)

end Sys2Proof.Machine
end

