-- ==== Sys2Proof/Machine/Tables.lean ====
section
/-! DEFINITION. The requests to the tables (chapters 4 and 9): SELECT, WRITE, READ, RELEASE_HOLDS, RANK_RESET,
PARTITION. -/

namespace Sys2Proof.Machine

/-! ### The pointer (R159, R160) -/

/-- The lowest and highest index of the pointer's region (chapter 9 section 3). -/
def Pointer.region (p : Pointer) (part : Partition) : Nat × Nat :=
  match p.table with
  | .route => (0, 63)
  | .pattern => if p.index < 8 then (0, 7) else (8, 7 + part.ramPatterns)

/-- One move by the step within the region (R160). -/
def Pointer.move (part : Partition) (p : Pointer) : Pointer :=
  let low := (p.region part).1
  let high := (p.region part).2
  match p.step with
  | .hold => p
  | .up => { p with index := if p.index = high then low else p.index + 1 }
  | .down => { p with index := if p.index = low then high else p.index - 1 }

/-- The pointer as it stands at each of a number of entries (R160). -/
def pointerPath (part : Partition) : Nat → Pointer → List Pointer
  | 0, _ => []
  | n + 1, p => p :: pointerPath part n (p.move part)

/-- The pointer after a number of entries (R160). -/
def pointerAfter (part : Partition) : Nat → Pointer → Pointer
  | 0, p => p
  | n + 1, p => pointerAfter part n (p.move part)

def setPointer (p : Pointer) (b : Block) : Block := b.setMsg { b.msg with pointer := p }

/-- The index lies in its table (R159). -/
def indexOk (t : TableName) (index : Nat) (part : Partition) : Bool :=
  match t with
  | .route => index ≤ 63
  | .pattern => index ≤ 7 + part.ramPatterns

/-- SELECT's own checks (R159, R182). -/
def ownSelect (p : List Byte) (b : Block) : Block × Option Reply :=
  match tableOf (field p 0 1), stepOf (field p 2 1) with
  | some t, some step =>
    if indexOk t (field p 1 1) b.settings.partition then
      let q : Pointer := ⟨t, field p 1 1, step⟩
      answer (setPointer q b) (pointerBytes q)
    else refuse .badArg b
  | _, _ => refuse .badArg b

/-- SELECT (R159). -/
def execSelect (s : State) : Host.Outcome State Fault Refusal := serve (kindIs 0x30) (plainRequest 3 ownSelect) s

/-! ### WRITE (R56, R60, R66, R162) -/

/-- One to eight whole entries of the table the pointer names (R162). -/
def writeLengthOk (b : Block) (len : Nat) : Bool :=
  let size := entrySize b.msg.pointer.table
  len % size == 0 && 1 ≤ len / size && len / size ≤ 8

/-- A route entry as it stands after a write over the one there (R56, R60). -/
def writtenRoute (b : Block) (old carried : RouteEntry) : RouteEntry :=
  { carried with hold := heldAfterWrite b old carried }

/-- One route entry is written at the pointer, which moves; the flag says that a hold was kept against a carried off
(R56, R160). -/
def writeRoute (acc : Block × Bool) (carried : RouteEntry) : Block × Bool :=
  let b := acc.1
  let q := b.msg.pointer
  let written := writtenRoute b (b.route q.index) carried
  (setPointer (q.move b.settings.partition)
    (b.setSettings { b.settings with routes := b.settings.routes.set q.index written }),
   acc.2 || (written.hold && !carried.hold))

/-- One pattern is written at the pointer, which lies in the RAM region and moves (R66, R160). -/
def writePattern (b : Block) (p : Pattern) : Block :=
  let q := b.msg.pointer
  setPointer (q.move b.settings.partition)
    (b.setSettings { b.settings with patterns := b.settings.patterns.set (q.index - 8) p })

/-- A batch of route entries: none where one names no code or is invalid (R55, R182). -/
def routeBatch (part : Partition) (entries : List (List Byte)) : Option (List RouteEntry) :=
  let l := entries.map routeOf
  if l.all fun o => o.any (routeValid part) then some (l.filterMap id) else none

/-- WRITE on the ROUTE table (R56). -/
def writeRoutes (p : List Byte) (b : Block) : Block × Option Reply :=
  match routeBatch b.settings.partition (entriesOf 4 p) with
  | none => refuse .badArg b
  | some l =>
    let out := l.foldl writeRoute (b, false)
    (out.1, some ⟨if out.2 then .held else .ok, pointerBytes out.1.msg.pointer⟩)

/-- WRITE on the PATTERN table (R66, R162). -/
def writePatterns (p : List Byte) (b : Block) : Block × Option Reply :=
  let l := (entriesOf 6 p).map patternOf
  if b.msg.pointer.index < 8 ∨ l.all patternValid = false then refuse .badArg b
  else
    let out := l.foldl writePattern b
    answer out (pointerBytes out.msg.pointer)

/-- WRITE's own checks (R162). -/
def ownWrite (p : List Byte) (b : Block) : Block × Option Reply :=
  match b.msg.pointer.table with
  | .route => writeRoutes p b
  | .pattern => writePatterns p b

/-- WRITE (R162). -/
def execWrite (s : State) : Host.Outcome State Fault Refusal :=
  serve (kindIs 0x31) (judged writeLengthOk (fun _ => true) ownWrite) s

/-! ### READ (R161) -/

/-- The bytes of the entry at the pointer (R54, R65). -/
def entryAt (b : Block) (q : Pointer) : List Byte :=
  match q.table with
  | .route => routeBytes (b.route q.index)
  | .pattern => patternBytes ((patternAt b.settings q.index).getD pattern0)

/-- READ's own check and effect (R161). -/
def ownRead (p : List Byte) (b : Block) : Block × Option Reply :=
  let count := field p 0 1
  let part := b.settings.partition
  if 1 ≤ count ∧ count ≤ 8 then
    let after := pointerAfter part count b.msg.pointer
    answer (setPointer after b)
      (pointerBytes after ++ (pointerPath part count b.msg.pointer).flatMap (entryAt b))
  else refuse .badArg b

/-- READ (R161). -/
def execRead (s : State) : Host.Outcome State Fault Refusal := serve (kindIs 0x32) (plainRequest 1 ownRead) s

/-! ### RELEASE HOLDS (R61) -/

/-- RELEASE HOLDS, with the number of entries that remain held (R61). -/
def ownReleaseHolds (_ : List Byte) (b : Block) : Block × Option Reply :=
  let routes := b.settings.routes.map (released b)
  answer (b.setSettings { b.settings with routes := routes }) (byte (routes.countP fun e => e.hold))

/-- RELEASE_HOLDS (R61). -/
def execReleaseHolds (s : State) : Host.Outcome State Fault Refusal :=
  serve (kindIs 0x33) (editRequest 0 ownReleaseHolds) s

/-! ### RANK RESET (R64) -/

/-- RANK RESET (R64). -/
def ownRankReset (_ : List Byte) (b : Block) : Block × Option Reply := answer (b.setRanks initialRanks) []

/-- RANK_RESET (R64). -/
def execRankReset (s : State) : Host.Outcome State Fault Refusal :=
  serve (kindIs 0x34) (plainRequest 0 ownRankReset) s

/-! ### PARTITION (R71, R72) -/

/-- The pointer after a change of partition (R71). -/
def Pointer.within (part : Partition) (q : Pointer) : Pointer :=
  if q.table = .pattern ∧ 7 + part.ramPatterns < q.index then { q with index := 8 } else q

/-- Every station is DISARMED. -/
def allDisarmed (b : Block) : Bool := allStations.all fun st => (b.station st).state == .disarmed

/-- An accepted PARTITION (R71, R72). -/
def changePartition (part : Partition) (b : Block) : Block :=
  setPointer (b.msg.pointer.within part)
    (b.setSettings
      { b.settings with
        partition := part
        patterns := carryPatterns part.ramPatterns b.settings.patterns })

/-- PARTITION's own checks (R71). -/
def ownPartition (p : List Byte) (b : Block) : Block × Option Reply :=
  if b.line.state ≠ .standby ∨ allDisarmed b = false then refuse .wrongState b
  else
    match partitionOf (field p 0 1) with
    | none => refuse .badArg b
    | some part => answer (changePartition part b) []

/-- PARTITION (R71). -/
def execPartition (s : State) : Host.Outcome State Fault Refusal :=
  serve (kindIs 0x35) (editRequest 1 ownPartition) s

end Sys2Proof.Machine
end

