-- ==== Sys2Proof/Machine/Store.lean ====
section
/-! DEFINITION. The settings store (chapter 10 sections 2 and 4): SAVE, SAVE_END, RESTORE, RESTORE_END, LOCK_OPEN,
LOCK_KEYED, LOCK_SEALED. -/

namespace Sys2Proof.Machine

/-- Work of the settings store ends: IDLE and a DONE report (R172, R173). -/
def storeDone (work : Work) (ending : DoneResult) (b : Block) : Block :=
  (b.setStore { b.store with activity := .idle }).report (.done work ending none none 0)

/-! ### SAVE (R171, R172) -/

/-- SAVE: SAVING with a copy, the stored image failing (R171). -/
def ownSave (_ : List Byte) (b : Block) : Block × Option Reply :=
  answer
    (b.setStore
      { b.store with
        activity := .saving b.settings.holdsOff
        image := { b.store.image with sound := false } }) []

/-- SAVE (R171). -/
def execSave (s : State) : Host.Outcome State Fault Refusal := serve (kindIs 0x60) (editRequest 0 ownSave) s

/-- The SAVE ends: the image is the copy and sound where it agrees with it, and failing otherwise (R172). -/
def finishSave (agrees : Bool) (b : Block) : Block :=
  match b.store.activity with
  | .saving copy =>
    if agrees then storeDone .save .ok (b.setStore { b.store with image := ⟨true, copy⟩ })
    else storeDone .save .writeFail (b.setStore { b.store with image := { b.store.image with sound := false } })
  | .idle => b
  | .restoring => b

/-- SAVE_END (R172). -/
def execSaveEnd (agrees : Bool) (s : State) : Host.Outcome State Fault Refusal :=
  eventIf (s.toBlock.running && s.store.activity.isSaving) s (finishSave agrees)

/-! ### RESTORE (R173) -/

/-- RESTORE's own check (R173). -/
def ownRestore (_ : List Byte) (b : Block) : Block × Option Reply :=
  if b.line.state ≠ .standby ∨ allDisarmed b = false then refuse .wrongState b
  else answer (b.setStore { b.store with activity := .restoring }) []

/-- RESTORE (R173). -/
def execRestore (s : State) : Host.Outcome State Fault Refusal :=
  serve (kindIs 0x61) (editRequest 0 ownRestore) s

/-- The working settings are replaced from the image, each block taking the change of its items (R5, R8, R54, R71,
R132, R173). -/
def applyImage (b : Block) : Block :=
  let new := b.store.image.contents.holdsOff
  let taken := ((b.setSettings new).setPos (b.pos.takeLimits new.sliceLength new.reverseLimit)).setMsg
    { b.msg with pointer := b.msg.pointer.within new.partition }
  allStations.foldl (fun acc st => clearChannels st acc) taken

/-- The RESTORE ends (R173). -/
def finishRestore (b : Block) : Block :=
  if !b.store.image.sound then storeDone .restore .checkFail b
  else if !allDisarmed b then storeDone .restore .abandoned b
  else storeDone .restore .ok (applyImage b)

/-- RESTORE_END (R173). -/
def execRestoreEnd (s : State) : Host.Outcome State Fault Refusal :=
  eventIf (s.toBlock.running && s.store.activity == .restoring) s finishRestore

/-! ### LOCK (R175) -/

/-- The lock mode an edit sets: in force, and as the default of the working settings (R175). -/
def setLockAndDefault (m : LockMode) (b : Block) : Block :=
  setLock m (b.setSettings { b.settings with defaultLock := m })

/-- LOCK with one mode: OPEN and KEYED are edits, SEALED and a value that names no mode are not (R175, R182,
log 25). -/
def lockRequest (code : Nat) (act : Block → Block) : List Byte → Block → Block × Option Reply :=
  judged (exactly 1) (fun p => field p 0 1 ≤ 1) fun p b =>
    if field p 0 1 = code then answer (act b) [] else refuse .badArg b

/-- LOCK_OPEN (R175). -/
def execLockOpen (s : State) : Host.Outcome State Fault Refusal :=
  serve (orderIs 0x62 0 3) (lockRequest 0 (setLockAndDefault .opened)) s

/-- LOCK_KEYED (R175). -/
def execLockKeyed (s : State) : Host.Outcome State Fault Refusal :=
  serve (orderIs 0x62 1 3) (lockRequest 1 (setLockAndDefault .keyed)) s

/-- LOCK_SEALED (R175). -/
def execLockSealed (s : State) : Host.Outcome State Fault Refusal :=
  serve (orderIs 0x62 2 3) (lockRequest 2 (setLock .sealed)) s

end Sys2Proof.Machine
end

