-- ==== Sys2Proof/Machine/Dispatch.lean ====
section
/-! DEFINITION. Every command of the opcode table with its meaning. -/

namespace Sys2Proof.Machine

/-- The effect of a command on everything but the queue of waiting commands. -/
def exec (i : Instr) (s : State) : Host.Outcome State Fault Refusal :=
  match i with
  | .encoderCount a b ret => Sys2Proof.Machine.execEncoderCount a b ret s
  | .speedGateExpiry => Sys2Proof.Machine.execSpeedGateExpiry s
  | .beacon => Sys2Proof.Machine.execBeacon s
  | .detectionByte v => Sys2Proof.Machine.execDetectionByte v s
  | .detectionGapTimeout => Sys2Proof.Machine.execDetectionGapTimeout s
  | .take => Sys2Proof.Machine.execTake s
  | .loadEnd => Sys2Proof.Machine.execLoadEnd s
  | .censusEnd trials => Sys2Proof.Machine.execCensusEnd trials s
  | .refreshTimerExpiry ret => Sys2Proof.Machine.execRefreshTimerExpiry ret s
  | .settleExpiry station => Sys2Proof.Machine.execSettleExpiry station s
  | .plantInputLevelChange input current => Sys2Proof.Machine.execPlantInputLevelChange input current s
  | .haltAssertion => Sys2Proof.Machine.execHaltAssertion s
  | .haltRelease => Sys2Proof.Machine.execHaltRelease s
  | .airLowChange => Sys2Proof.Machine.execAirLowChange s
  | .keyChange => Sys2Proof.Machine.execKeyChange s
  | .controlByte v stop => Sys2Proof.Machine.execControlByte v stop s
  | .controlGapTimeout => Sys2Proof.Machine.execControlGapTimeout s
  | .transmitComplete => Sys2Proof.Machine.execTransmitComplete s
  | .unknownKind => Sys2Proof.Machine.execUnknownKind s
  | .identify => Sys2Proof.Machine.execIdentify s
  | .status => Sys2Proof.Machine.execStatus s
  | .lineRun => Sys2Proof.Machine.execLineRun s
  | .lineStandbyDrain => Sys2Proof.Machine.execLineStandbyDrain s
  | .lineStandbyFlush => Sys2Proof.Machine.execLineStandbyFlush s
  | .lineSet => Sys2Proof.Machine.execLineSet s
  | .stationSet => Sys2Proof.Machine.execStationSet s
  | .arm => Sys2Proof.Machine.execArm s
  | .disarm => Sys2Proof.Machine.execDisarm s
  | .floor => Sys2Proof.Machine.execFloor s
  | .clearChannel => Sys2Proof.Machine.execClearChannel s
  | .select => Sys2Proof.Machine.execSelect s
  | .write => Sys2Proof.Machine.execWrite s
  | .read => Sys2Proof.Machine.execRead s
  | .releaseHolds => Sys2Proof.Machine.execReleaseHolds s
  | .rankReset => Sys2Proof.Machine.execRankReset s
  | .partition => Sys2Proof.Machine.execPartition s
  | .cancel => Sys2Proof.Machine.execCancel s
  | .amend => Sys2Proof.Machine.execAmend s
  | .trackQuery => Sys2Proof.Machine.execTrackQuery s
  | .listRead => Sys2Proof.Machine.execListRead s
  | .tallyRead => Sys2Proof.Machine.execTallyRead s
  | .save => Sys2Proof.Machine.execSave s
  | .saveEnd agrees => Sys2Proof.Machine.execSaveEnd agrees s
  | .restore => Sys2Proof.Machine.execRestore s
  | .restoreEnd => Sys2Proof.Machine.execRestoreEnd s
  | .lockOpen => Sys2Proof.Machine.execLockOpen s
  | .lockKeyed => Sys2Proof.Machine.execLockKeyed s
  | .lockSealed => Sys2Proof.Machine.execLockSealed s
  | .purgeStart => Sys2Proof.Machine.execPurgeStart s
  | .purgeSuspend => Sys2Proof.Machine.execPurgeSuspend s
  | .purgeResume => Sys2Proof.Machine.execPurgeResume s
  | .purgeAbort => Sys2Proof.Machine.execPurgeAbort s
  | .purgeShotEnd => Sys2Proof.Machine.execPurgeShotEnd s
  | .purgeGapEnd => Sys2Proof.Machine.execPurgeGapEnd s
  | .calibrate => Sys2Proof.Machine.execCalibrate s
  | .clearFault => Sys2Proof.Machine.execClearFault s
  | .restart => Sys2Proof.Machine.execRestart s
  | .powerOn => Sys2Proof.Machine.execPowerOn s
  | .supplyDip => Sys2Proof.Machine.execSupplyDip s
  | .resetLineAssert => Sys2Proof.Machine.execResetLineAssert s
  | .resetLineRelease => Sys2Proof.Machine.execResetLineRelease s
  | .resetEnd => Sys2Proof.Machine.execResetEnd s
  | .supplyRisesAboveResetThreshold => Sys2Proof.Machine.execSupplyRisesAboveResetThreshold s

end Sys2Proof.Machine
end

