-- ==== Sys2Proof/Safety.lean ====
section
/-! DEFINITION. What statements about the controller are said in: the two invariants every step keeps, when a request
is the next to be served, and the message unit after a request has been answered. -/

namespace Sys2Proof.Machine

/-! ### Shape: capacities, sizes, ranges -/

/-- The working settings have their sizes, and S its range (R6, R54, R65). -/
structure Settings.Sized (x : Settings) : Prop where
  sliceLength : 1 ≤ x.sliceLength ∧ x.sliceLength ≤ 256
  routes : x.routes.length = 64
  patterns : x.patterns.length = x.partition.ramPatterns

/-- Every capacity is kept, every table has its size, and the registers tied to one another agree. -/
structure Block.Shaped (b : Block) : Prop where
  /-- Backlash is 0 or more (R7). -/
  backlash : b.pos.n ≤ b.pos.x
  /-- R21. -/
  intakeQueue : b.intake.queue.length ≤ 64
  /-- R152. -/
  receiveBuffer : b.msg.buffer.length ≤ 4
  /-- R164. -/
  reportQueue : b.msg.reports.length ≤ 32
  /-- R163. -/
  reportNumber : b.msg.nextReport < 65536
  /-- The ranks are a permutation of 0, 1, 2 and 3 (R63). -/
  ranks : b.ranks.toList.Perm [0, 1, 2, 3]
  /-- R124, R125, R127. -/
  boards : b.chain.boards ≤ 4
  outputs : b.chain.outputs.length = 128
  feedback : b.chain.feedback.length = 128
  /-- R169. -/
  working : b.settings.Sized
  image : b.store.image.contents.Sized
  copy : ∀ c, b.store.activity = .saving c → c.Sized
  channels : ∀ st, (b.station st).channels.length = 64
  /-- The enable line is asserted in ARMING and ARMED alone (chapter 7 section 2). -/
  enable : ∀ st, (b.station st).enable = true ↔ ((b.station st).state = .arming ∨ (b.station st).state = .armed)
  /-- A fault cause is held in FAULT alone (R143, R144). -/
  faultCause : b.line.state = .fault ↔ b.line.fault ≠ .none

/-! ### Tracking: the table, the lists, and the line states they stand in -/

/-- The laws of the track table, the firing lists and the pointer, with what start-up needs of the other blocks to
keep them. -/
structure Block.Tracking (b : Block) : Prop where
  /-- During a reset the blocks hold their reset values (R145). -/
  inReset : b.resetting ≠ none →
    b.line.state = .startup ∧ b.chain.census = false ∧ b.store.loading = false ∧ b.msg.pointer.table = .route
  /-- The load is made in STARTUP, before the census (R134). -/
  inLoad : b.store.loading = true →
    b.line.state = .startup ∧ b.chain.census = false ∧ b.msg.pointer.table = .route
  /-- STARTUP finds every station DISARMED (R129, R131). -/
  startup : b.line.state = .startup → ∀ st, (b.station st).state = .disarmed
  /-- A RESTORE is not in progress in RUN or DRAINING (R136, R173). -/
  restoring : b.store.activity = .restoring → b.line.state ≠ .run ∧ b.line.state ≠ .draining
  /-- The table is empty outside RUN and DRAINING (R53). -/
  emptyTable : b.line.state ≠ .run → b.line.state ≠ .draining → b.track.table = []
  /-- The list of a station that is not ARMED is empty (R105). -/
  emptyList : ∀ st, (b.station st).state ≠ .armed → b.lists.get st = []
  /-- No two records share a tag (R35). -/
  tags : (b.track.table.map (·.tag)).Nodup
  /-- The table holds no more records than its capacity (R35). -/
  capacity : b.track.table.length ≤ b.settings.partition.trackCapacity
  /-- Belt order (R35). -/
  order : (b.track.table.map (·.position)).Pairwise (· ≤ ·)
  /-- A list holds no more entries than the partition allows (R88). -/
  listCapacity : ∀ st, (b.lists.get st).length ≤ b.settings.partition.listCapacity
  /-- The pointer stands in its table (R159, R160). -/
  pointer : b.msg.pointer.index ≤
    (match b.msg.pointer.table with
    | .route => 63
    | .pattern => 7 + b.settings.partition.ramPatterns)

/-! ### A stopped line -/

/-- What HALT and every fault leave: the table and the lists empty, every station DISARMED with its enable line
deasserted (R140, R143). -/
structure Block.Stopped (b : Block) : Prop where
  table : b.track.table = []
  lists : ∀ st, b.lists.get st = []
  disarmed : ∀ st, (b.station st).state = .disarmed
  enable : ∀ st, (b.station st).enable = false

/-! ### Holds of a stopped line -/

/-- The settings after every ARMED station has left ARMED: a hold on each entry that names one (R58). -/
def Block.heldSettings (b : Block) : Settings :=
  { b.settings with
    routes :=
      b.settings.routes.map fun e =>
        if ∃ st, (b.stations.get st).state = .armed ∧ e.stations.get st = true then { e with hold := true } else e }

/-! ### What a stop of the line ends, counts and reports (R40, R43, R52, R115, R140, R143) -/

/-- A record once those of the stations below number `k` that were ARMED have left ARMED. -/
def ParticleRecord.leftBelow (b : Block) (k : Nat) (r : ParticleRecord) : ParticleRecord :=
  allStations.foldl
    (fun q st =>
      if st.val < k ∧ (b.stations.get st).state = .armed then q.updateSlot st Slot.stationLeft else q) r

/-- Every slot of the record is FINAL once some ARMED station below number `k` has left ARMED: it has retired. -/
def ParticleRecord.goneBelow (b : Block) (k : Nat) (r : ParticleRecord) : Bool :=
  allStations.any fun st =>
    st.val < k && (b.stations.get st).state == .armed && (r.leftBelow b (st.val + 1)).finished

/-- The records that retire as a station leaves ARMED, as they then stand, in table order. -/
def Block.retiredAt (b : Block) (st : StationId) : List ParticleRecord :=
  (b.track.table.filter fun r => r.goneBelow b (st.val + 1) && !r.goneBelow b st.val).map
    (ParticleRecord.leftBelow b (st.val + 1))

/-- The records that are left for the flush, as they retire by it, in table order. -/
def Block.retiredByFlush (b : Block) : List ParticleRecord :=
  (b.track.table.filter fun r => !r.goneBelow b 4).map fun r =>
    { r.leftBelow b 4 with slots := (r.leftBelow b 4).slots.map fun o => o.map Slot.aborted }

/-- The RESULTs of retiring records: of those whose report flag is set (R45). -/
def resultsOf (l : List ParticleRecord) : List ReportBody :=
  (l.filter fun r => r.report).map ParticleRecord.resultBody

/-- The DONE of a maintenance run that is abandoned because its station leaves ARMED (R178, R180). -/
def Block.abandonedReports (b : Block) (st : StationId) : List ReportBody :=
  let purge (p : Purge) : List ReportBody :=
    if p.station = st then [.done .purge .abandoned (some st) (some (faultedCount b st)) 0] else []
  match b.maint with
  | .purging p => purge p
  | .suspended p => purge p
  | .calibrating c => if c.station = st then [.done .calibrate .abandoned (some st) (some c.channel) 0] else []
  | .idle => []

/-- What one station's going to DISARMED queues: RESULTs, then DONE, then its NOTICE with its hold count (R115, R116;
a hold count of 0 where it was not ARMED, log 20). -/
def Block.stationReports (b : Block) (cause : StationCause) (st : StationId) : List ReportBody :=
  match (b.stations.get st).state with
  | .armed =>
    resultsOf (b.retiredAt st) ++ b.abandonedReports st ++
      [.stationNotice st .armed .disarmed cause (b.settings.routes.countP fun e => e.stations.get st)]
  | .arming => [.stationNotice st .arming .disarmed cause 0]
  | .faulted => [.stationNotice st .faulted .disarmed cause 0]
  | .disarmed => []

/-- What a stop of the line queues before its line NOTICE: the stations in order, then the flush (R140). -/
def Block.stopReports (b : Block) (cause : StationCause) : List ReportBody :=
  allStations.flatMap (b.stationReports cause) ++ resultsOf b.retiredByFlush

/-- The outcome tallies after a stop of the line (R43, R44). -/
def Block.stopOutcomes (b : Block) : Four (List Nat) :=
  (allStations.flatMap b.retiredAt ++ b.retiredByFlush).foldl countOutcomes b.track.outcomes

/-- The sequencer after a stop of the line: IDLE where its station was ARMED (R178, R180). -/
def Block.stopMaint (b : Block) : Sequencer :=
  let after (st : StationId) : Sequencer := if (b.stations.get st).state = .armed then .idle else b.maint
  match b.maint with
  | .purging p => after p.station
  | .suspended p => after p.station
  | .calibrating c => after c.station
  | .idle => .idle

/-- A station as DISARM, HALT and FAULT leave it: one that was ARMED with its timers and counters at rest, its fault
marks and tallies kept (R114, R115). -/
def Station.stopped (x : Station) : Station :=
  match x.state with
  | .armed =>
    { x with
      state := .disarmed
      enable := false
      settle := none
      channels := x.channels.map fun ch => { ch with confirm := none, stuck := 0, lastOn := none } }
  | .arming => { x with state := .disarmed, enable := false, settle := none }
  | .faulted => { x with state := .disarmed, enable := false, settle := none }
  | .disarmed => x

/-- The sequencer once a station has left ARMED: IDLE where its run was on that station (R178, R180). -/
def Block.maintWithout (b : Block) (st : StationId) : Sequencer :=
  let after (other : StationId) : Sequencer := if other = st then .idle else b.maint
  match b.maint with
  | .purging p => after p.station
  | .suspended p => after p.station
  | .calibrating c => after c.station
  | .idle => .idle

/-- Everything a stop of the line does to table, lists, stations, holds, tallies and sequencer; what it queues is
`Block.stopReports`. -/
structure LineStopped (b : Block) (t : State) : Prop where
  stopped : t.toBlock.Stopped
  stations : ∀ st, t.stations.get st = (b.stations.get st).stopped
  settings : t.settings = b.heldSettings
  outcomes : t.track.outcomes = b.stopOutcomes
  maint : t.maint = b.stopMaint

/-- Reports offered one after another. -/
def offerAll (reports : List ReportBody) (m : MessageUnit) : MessageUnit :=
  reports.foldl (fun acc r => offerReport r acc) m

/-! ### A reset -/

/-- The factory defaults, item by item (R174, with the initial values of chapter 7 section 1-2 and of pattern 0). -/
structure FactoryDefaults (x : Settings) : Prop where
  sliceLength : x.sliceLength = 8
  reverseLimit : x.reverseLimit = 64
  staleLimit : x.staleLimit = 200000
  stations : ∀ st, x.stations.get st =
    { kind := .none, firstOutput := 0, channels := 1, leadDistance := 0, latency := 0, horizon := 32, maxOn := 64
      maxOnTime := 20000, minGap := 2, concurrency := 1, confirmWindow := 5000, settleTime := 50 }
  routes : x.routes = List.replicate 64
    { stations := ⟨false, false, false, false⟩, delivery := .fixed, action := .eject, priority := 0, pattern := 0
      minConfidence := 0, report := false, hold := false }
  partition : x.partition = .p0
  patterns : x.patterns = List.replicate 24 { lead := 0, trail := 0, widen := 0, minOn := 1, maxOn := 4095 }
  floors : ∀ st, x.floors.get st = { floor := 0, lowAir := 15 }
  defaultLock : x.defaultLock = .opened

/-- The values every reset gives the blocks (R16, R34, R35, R44, R64, R109, R131, R148, R168, R170, R177). -/
structure Block.Blank (b : Block) : Prop where
  pos : b.pos =
    { n := 0, x := 0, slice := 0, reverseFlag := false, overspeed := false, v := 0, gateStart := 0, gateNet := 0
      beaconStart := none, beacon := none }
  intake : b.intake =
    { receiver := .seeking, queue := [], ready := false, lastTake := none
      tallies := ⟨0, 0, 0, 0, 0, 0, 0, 0, 0, 0, 0, 0⟩ }
  table : b.track.table = []
  outcomes : ∀ st, b.track.outcomes.get st = [0, 0, 0, 0, 0, 0, 0, 0, 0, 0, 0, 0, 0]
  lists : ∀ st, b.lists.get st = []
  ranks : b.ranks = ⟨0, 1, 2, 3⟩
  settings : FactoryDefaults b.settings
  stations : ∀ st, b.stations.get st =
    { state := .disarmed, enable := false, settle := none
      channels := List.replicate 64 { fault := none, confirm := none, stuck := 0, lastOn := none }
      noConfirm := 0, stuck := 0, cut := 0 }
  chain : b.chain =
    { outputs := List.replicate 128 false, feedback := List.replicate 128 false, boards := 0, censusOk := false
      census := false, chainError := false, refreshStart := none }
  msg : b.msg =
    { receiver := .seeking, buffer := [], inHand := none, reply := none, sending := none, reports := [], nextReport := 0
      pointer := ⟨.route, 0, .up⟩, tallies := ⟨0, 0, 0, 0, 0, 0, 0, 0, 0, 0, 0, 0⟩ }
  maint : b.maint = .idle
  activity : b.store.activity = .idle
  line : b.line.state = .startup ∧ b.line.fault = .none ∧ b.line.settingsLost = false ∧ b.line.haltInCensus = false

/-- A reset has begun or been extended (R145, R146, R148): the blocks are blank, the record and the lock's copy are as
given, no time is counted at an input, and what stands outside and the stored image are as before. -/
structure ResetBegun (s t : State) (record : ResetRecord) (copy : LockMode) (progress : ResetProgress) : Prop where
  blank : t.toBlock.Blank
  resetting : t.resetting = some progress
  record : t.line.record = record
  halt : t.line.halt = { s.line.halt with since := none }
  airLow : t.line.airLow = { s.line.airLow with since := none }
  key : t.line.key = { s.line.key with since := none }
  store : t.store = ⟨s.store.image, .idle, false, copy, copy⟩
  clock : t.clock = s.clock
  lines : t.encA = s.encA ∧ t.encB = s.encB

/-! ### Channels in turn -/

/-- The first channel of a station from a number on that is OK (R177). -/
def FirstOk (b : Block) (st : StationId) (start ch : Nat) : Prop :=
  start ≤ ch ∧ ch < (b.config st).channels ∧ channelOk b st ch = true ∧
    ∀ j, start ≤ j → j < ch → channelOk b st j = false

/-- No channel of a station from a number on is OK. -/
def NoneOk (b : Block) (st : StationId) (start : Nat) : Prop :=
  ∀ j, start ≤ j → j < (b.config st).channels → channelOk b st j = false

/-! ### Layouts and ranges (chapter 11, R55, R66, R110) -/

/-- The fields of a layout: each (offset, size, value) stands little-endian at its offset where the value fits its size
(what a field carries for a wider one is log 12). -/
def Carries (bytes : List Byte) (fields : List (Nat × Nat × Nat)) : Prop :=
  ∀ f ∈ fields, f.2.2 < 256 ^ f.2.1 → field bytes f.1 f.2.1 = f.2.2

/-- The signed field of a size at an offset, in two's complement, where the value fits it. -/
def CarriesSigned (bytes : List Byte) (start size : Nat) (z : Int) : Prop :=
  -(256 ^ size : Int) ≤ 2 * z → 2 * z < 256 ^ size →
    (field bytes start size : Int) = if 0 ≤ z then z else z + 256 ^ size

/-- Four bytes spell this route entry; none does where the delivery is 3 (chapter 11 section 4, R182). -/
structure SpellsRoute (bytes : List Byte) (r : RouteEntry) : Prop where
  stations : ∀ st : StationId, r.stations.get st = true ↔ field bytes 0 1 / 2 ^ st.val % 2 = 1
  delivery : (field bytes 0 1 / 16 % 4, r.delivery) ∈ [(0, .fixed), (1, .leastLoaded), (2, .all)]
  action : (field bytes 0 1 / 64 % 2, r.action) ∈ [(0, .eject), (1, .shield)]
  report : r.report = true ↔ field bytes 0 1 / 128 % 2 = 1
  priority : r.priority = field bytes 1 1 % 16
  hold : r.hold = true ↔ field bytes 1 1 / 16 % 2 = 1
  pattern : r.pattern = field bytes 2 1
  minConfidence : r.minConfidence = field bytes 3 1

/-- A route entry is valid under a partition: fields in their ranges, and FIXED with at most one station, LEAST_LOADED with
none or at least two (R55). -/
structure GoodRoute (part : Partition) (r : RouteEntry) : Prop where
  fixed : r.delivery = .fixed → ∀ st other, r.stations.get st = true → r.stations.get other = true → other = st
  leastLoaded :
    r.delivery = .leastLoaded → ∀ st, r.stations.get st = true → ∃ other, other ≠ st ∧ r.stations.get other = true
  priority : r.priority ≤ 15
  pattern : r.pattern ≤ 7 + part.ramPatterns
  minConfidence : r.minConfidence ≤ 255

/-- A pattern is valid: each field in its range, and minimum on at most maximum on (R66, chapter 4 section 4-1). -/
structure GoodPattern (x : Pattern) : Prop where
  lead : x.lead ≤ 255
  trail : x.trail ≤ 255
  widen : x.widen ≤ 3
  minOn : 1 ≤ x.minOn ∧ x.minOn ≤ 16
  maxOn : 1 ≤ x.maxOn ∧ x.maxOn ≤ 4095
  order : x.minOn ≤ x.maxOn

/-- The fields of a station record lie in their ranges, for a kind that takes at most `most` channels (R110, chapter 7
section 1-2). -/
structure GoodRecord (most : Nat) (c : StationSettings) : Prop where
  firstOutput : c.firstOutput ≤ 127
  channels : 1 ≤ c.channels ∧ c.channels ≤ most
  leadDistance : c.leadDistance ≤ 1048575
  latency : c.latency ≤ 262143
  horizon : 1 ≤ c.horizon ∧ c.horizon ≤ 255
  maxOn : 1 ≤ c.maxOn ∧ c.maxOn ≤ 4095
  maxOnTime : 100 ≤ c.maxOnTime ∧ c.maxOnTime ≤ 1000000
  minGap : c.minGap ≤ 255
  concurrency : 1 ≤ c.concurrency ∧ c.concurrency ≤ c.channels
  confirmWindow : 100 ≤ c.confirmWindow ∧ c.confirmWindow ≤ 1000000
  settleTime : c.settleTime ≤ 2000
  range : c.firstOutput + c.channels ≤ 128

/-! ### Serving -/

/-- The request with this kind and payload is the next to be served (R153). -/
structure Serving (s : State) (kind : Byte) (p : List Byte) (rest : List Frame) : Prop where
  running : s.resetting = none
  free : s.msg.inHand = none
  head : s.msg.buffer = ⟨kind, p⟩ :: rest

/-- The frames a request row serves. -/
def serves (c : Instr) (f : Frame) : Bool :=
  match c with
  | .unknownKind => unknownFrame f
  | .identify => kindIs 0x01 f
  | .status => kindIs 0x02 f
  | .lineRun => orderIs 0x10 0 3 f
  | .lineStandbyDrain => orderIs 0x10 1 3 f
  | .lineStandbyFlush => orderIs 0x10 2 3 f
  | .lineSet => kindIs 0x11 f
  | .stationSet => kindIs 0x20 f
  | .arm => kindIs 0x21 f
  | .disarm => kindIs 0x22 f
  | .floor => kindIs 0x23 f
  | .clearChannel => kindIs 0x24 f
  | .select => kindIs 0x30 f
  | .write => kindIs 0x31 f
  | .read => kindIs 0x32 f
  | .releaseHolds => kindIs 0x33 f
  | .rankReset => kindIs 0x34 f
  | .partition => kindIs 0x35 f
  | .cancel => kindIs 0x40 f
  | .amend => kindIs 0x41 f
  | .trackQuery => kindIs 0x42 f
  | .listRead => kindIs 0x43 f
  | .tallyRead => kindIs 0x50 f
  | .save => kindIs 0x60 f
  | .restore => kindIs 0x61 f
  | .lockOpen => orderIs 0x62 0 3 f
  | .lockKeyed => orderIs 0x62 1 3 f
  | .lockSealed => orderIs 0x62 2 3 f
  | .purgeStart => orderIs 0x70 0 4 f
  | .purgeSuspend => orderIs 0x70 1 4 f
  | .purgeResume => orderIs 0x70 2 4 f
  | .purgeAbort => orderIs 0x70 3 4 f
  | .calibrate => kindIs 0x71 f
  | .clearFault => kindIs 0x80 f
  | .restart => kindIs 0x81 f
  | .encoderCount _ _ _ | .speedGateExpiry | .beacon | .detectionByte _ | .detectionGapTimeout | .take | .loadEnd
  | .censusEnd _ | .refreshTimerExpiry _ | .settleExpiry _ | .plantInputLevelChange _ _ | .haltAssertion
  | .haltRelease | .airLowChange | .keyChange | .controlByte _ _ | .controlGapTimeout | .transmitComplete
  | .saveEnd _ | .restoreEnd | .purgeShotEnd | .purgeGapEnd | .powerOn | .supplyDip | .resetLineAssert
  | .resetLineRelease | .resetEnd | .supplyRisesAboveResetThreshold => false

/-- The lock and the busy check pass an edit (R175). -/
structure EditsOpen (s : State) : Prop where
  idle : s.store.activity = .idle
  lock : s.store.lock = .opened ∨ (s.store.lock = .keyed ∧ s.line.key.taken = true)

/-- The frame has left the buffer, and its request is in hand (R153). -/
def MessageUnit.serving (m : MessageUnit) (kind : Byte) (rest : List Frame) : MessageUnit :=
  { m with buffer := rest, inHand := some kind }

/-- A reply has taken its place, and the transmitter, if free, has taken what is next (R156). -/
def MessageUnit.replying (m : MessageUnit) (now : Nat) (kind : Byte) (status : Status) (items : List Byte) :
    MessageUnit :=
  startSending now (placeReply kind ⟨status, items⟩ m)

/-- The message unit after a request that queues no report. -/
def State.answered (s : State) (kind : Byte) (rest : List Frame) (status : Status) (items : List Byte) : MessageUnit :=
  (s.msg.serving kind rest).replying s.clock kind status items

/-- The message unit after a request that queues one report before its reply. -/
def State.reportedAnd (s : State) (body : ReportBody) (kind : Byte) (rest : List Frame) (status : Status)
    (items : List Byte) : MessageUnit :=
  (offerReport body (s.msg.serving kind rest)).replying s.clock kind status items

/-- The message unit after an event that queues nothing: a free transmitter takes what waits (R156). -/
def State.settledMsg (s : State) : MessageUnit := startSending s.clock s.msg

/-- The message unit after an event that queues one report. -/
def State.reported (s : State) (body : ReportBody) : MessageUnit := startSending s.clock (offerReport body s.msg)

end Sys2Proof.Machine
end

