-- ==== Sys2Proof/Certificates/Slice0/Obligations.lean ====
section
/-! DEFINITION. The statements for the provers. A statement about a request takes the frame at the head of the receive
buffer with any payload its form admits; the message unit after it is named by Sys2Proof/Safety.lean. -/

open Sys2Proof Sys2Proof.Machine

/-! ### The queue of commands -/

/-- A step with a command at the front of the queue is that command on the queue's rest; with none waiting one
microsecond passes (R102), from the end of the time base's 64 bits to a free value (the queue and the microsecond of an
empty one are the model's, log 2; the free value is log 11). -/
def Obligations.StepRunsTheFrontCommand : Prop :=
  (∀ (c : Instr) (rest : List Instr) (s : State),
    step { s with pending := c :: rest } = exec c { s with pending := rest }) ∧
  ∀ s : State, s.pending = [] →
    step s = .next
      { s with
        clock := if s.clock < 18446744073709551615 then s.clock + 1 else (Config.clockBeyondRange s.clock).val }

/-- Nothing stops the controller: every command answers a next state and leaves the waiting commands alone. That a command
which is not due, or is not the next to be served, still answers one is the model's choice (logs 1 and 3), and the queue
is the model's (log 2). -/
def Obligations.EveryCommandAnswersNext : Prop :=
  ∀ (c : Instr) (s : State), ∃ t, exec c s = .next t ∧ t.pending = s.pending

/-! ### Invariants -/

/-- Every step keeps the capacities, sizes and ranges of `Block.Shaped`. -/
def Obligations.EveryStepKeepsShape : Prop :=
  ∀ s t : State, s.toBlock.Shaped → step s = .next t → t.toBlock.Shaped

/-- Every step keeps the laws of the track table, the firing lists and the pointer of `Block.Tracking`. -/
def Obligations.EveryStepKeepsTracking : Prop :=
  ∀ s t : State, s.toBlock.Tracking → step s = .next t → t.toBlock.Tracking

/-- The machine right after reset has both invariants. -/
def Obligations.ResetHasShapeAndTracking : Prop := State.reset.toBlock.Shaped ∧ State.reset.toBlock.Tracking

/-! ### Position unit -/

/-- ENCODER_COUNT: the pairs that count forward, reverse or not at all. A counted change moves N by 1 and X with a forward
count at X alone, backlash being X − N (R7); past STARTUP the reverse flag is cleared at backlash 0, set by the reverse count that takes backlash
past the limit, and otherwise kept; the scan slice follows X at a crossing after STARTUP, and the crossing's event then
runs; the rest of the position unit, intake, ranks, settings store and time are not touched. Without a crossing nothing but
the lines and the position unit changes, unless a reverse count in RUN or DRAINING leaves backlash above the limit: in the
other states the excess raises no fault (R9). A skipped state, and any change while a reset is in progress, moves the
lines and nothing else. -/
def Obligations.CountMovesNetAndScan : Prop :=
  (∀ a b c d : Bool,
    (decodeCount a b c d = some true ↔
      (a, b, c, d) ∈ [(false, false, true, false), (true, false, true, true), (true, true, false, true),
        (false, true, false, false)]) ∧
    (decodeCount a b c d = some false ↔ decodeCount c d a b = some true)) ∧
  (∀ pos : PositionUnit, pos.n ≤ pos.x → (pos.backlash : Int) = pos.x - pos.n) ∧
  ∀ (s : State) (a b : Bool) (ret : List Bool),
    (∀ (f : Bool) (n : Int) (x : Nat) (pos : PositionUnit) (crossed : Bool),
      s.resetting = none → s.pos.n ≤ s.pos.x → -281474976710655 < s.pos.n → s.pos.n < 281474976710655 →
      decodeCount s.encA s.encB a b = some f →
      n = (if f = true then s.pos.n + 1 else s.pos.n - 1) →
      x = (if f = true ∧ s.pos.n = s.pos.x then s.pos.x + 1 else s.pos.x) →
      pos =
        { s.pos with
          n := n
          x := x
          reverseFlag :=
            if s.line.state = .startup then s.pos.reverseFlag
            else if n = x then false
            else if f = false ∧ (s.settings.reverseLimit : Int) < x - n then true
            else s.pos.reverseFlag } →
      crossed =
        decide (s.line.state ≠ .startup ∧ f = true ∧ s.pos.n = s.pos.x ∧ x % s.settings.sliceLength = 0) →
      ∃ t, exec (.encoderCount a b ret) s = .next t ∧ t.encA = a ∧ t.encB = b ∧
        t.pos = { pos with slice := if crossed = true then x / s.settings.sliceLength else s.pos.slice } ∧
        t.intake = s.intake ∧ t.ranks = s.ranks ∧ t.store = s.store ∧ t.clock = s.clock ∧
        (crossed = true →
          ∀ out, out =
              crossing (x / s.settings.sliceLength) ret { s.toBlock with encA := a, encB := b, pos := pos } →
            t = { s with toBlock := { out with msg := startSending s.clock out.msg } }) ∧
        (crossed = false →
          ((s.line.state ≠ .run ∧ s.line.state ≠ .draining) ∨ f = true ∨ (x : Int) - n ≤ s.settings.reverseLimit) →
          t = { s with encA := a, encB := b, pos := pos, msg := s.settledMsg })) ∧
    ((s.resetting ≠ none ∨ decodeCount s.encA s.encB a b = none) →
      exec (.encoderCount a b ret) s = .next { s with encA := a, encB := b, msg := s.settledMsg })

/-- ENCODER_COUNT: in RUN and DRAINING a reverse count that makes backlash greater than the reverse limit faults the
line with cause REVERSE: everything a stop of the line ends, counts and reports, and then the line NOTICE. That from
DRAINING a disarm that empties the table queues no DRAIN_DONE NOTICE is the model's reading (log 19), and so is the hold
count 0 in the NOTICE of a station that was not ARMED (log 20). -/
def Obligations.ReverseBeyondTheLimitFaultsTheLine : Prop :=
  ∀ (s : State) (a b : Bool) (ret : List Bool),
    s.toBlock.Shaped → s.resetting = none → (s.line.state = .run ∨ s.line.state = .draining) →
    -281474976710655 < s.pos.n → decodeCount s.encA s.encB a b = some false →
    (s.settings.reverseLimit : Int) < s.pos.x - s.pos.n + 1 →
    ∃ t, exec (.encoderCount a b ret) s = .next t ∧ t.line = { s.line with state := .fault, fault := .reverse } ∧
      t.pos.reverseFlag = true ∧ LineStopped s.toBlock t ∧
      t.msg = startSending s.clock
        (offerAll (s.toBlock.stopReports .fault ++ [.lineNotice s.line.state .fault .reverse .reverse]) s.msg) ∧
      t.intake = s.intake ∧ t.ranks = s.ranks ∧ t.chain = s.chain ∧ t.store = s.store

/-- SPEED_GATE_EXPIRY: V is the net count over the gate between 0 and 65,535, the gate restarts, and past STARTUP the
overspeed flag is set from 205 × S up. Only in RUN and DRAINING does a set flag do more: it faults the line, with all that
a stop of the line ends, counts and reports. That from DRAINING no DRAIN_DONE NOTICE is queued within the fault is the
model's reading (log 19), and so is the hold count 0 in the NOTICE of a station that was not ARMED (log 20). -/
def Obligations.GateExpiryMeasuresSpeed : Prop :=
  ∀ s : State, s.toBlock.Shaped → s.resetting = none → s.pos.gateStart + 8192 ≤ s.clock →
    ∃ t, exec .speedGateExpiry s = .next t ∧
      (∀ v, v = min (s.pos.n - s.pos.gateNet).toNat 65535 →
        t.pos =
          { s.pos with
            v := v
            gateStart := s.clock
            gateNet := s.pos.n
            overspeed :=
              if s.line.state = .startup then s.pos.overspeed else decide (205 * s.settings.sliceLength ≤ v) } ∧
        ((s.line.state = .run ∨ s.line.state = .draining) → 205 * s.settings.sliceLength ≤ v →
          t.line = { s.line with state := .fault, fault := .overspeed } ∧ LineStopped s.toBlock t ∧
            t.msg = startSending s.clock
              (offerAll (s.toBlock.stopReports .fault ++ [.lineNotice s.line.state .fault .overspeed .overspeed])
                s.msg) ∧
            t.intake = s.intake ∧ t.ranks = s.ranks ∧ t.chain = s.chain ∧ t.store = s.store) ∧
        ((s.line.state ≠ .run ∧ s.line.state ≠ .draining) ∨ v < 205 * s.settings.sliceLength →
          t = { s with pos := t.pos, msg := s.settledMsg }))

/-- BEACON: the frame carries X, V and the line state as they stand, and the timer runs again. The frame is the start byte,
the length 9, nine bytes of content and the check value (chapter 11 section 2). -/
def Obligations.BeaconCarriesScanSpeedAndState : Prop :=
  (∀ (s : State) (start : Nat), s.resetting = none → s.pos.beaconStart = some start → start + 1000 ≤ s.clock →
    exec .beacon s = .next
      { s with
        pos :=
          { s.pos with
            beaconStart := some s.clock
            beacon := some (beaconFrame s.pos.x s.pos.v s.line.state) }
        msg := s.settledMsg }) ∧
  ∀ (x v : Nat) (line : LineState),
    ∃ content : List Byte, content.length = 9 ∧ Carries content [(0, 6, x), (6, 2, v), (8, 1, line.code)] ∧
      beaconFrame x v line = 0xD3#8 :: 9#8 :: content ++ crcBytes (9#8 :: content)

/-- The crossing into slice c: every station in turn ends the entries whose off slice is c, starts those whose on slice is
c and makes its due commits; then the finished records retire, the drain may be done, and the refresh is made (its
reports stand behind the drain's NOTICE, log 38). An entry that ends leaves its list, and each slot of its tags loses one
entry; an entry that starts stays on the list, ACTIVE from the present time, and each slot of its tags is ACTIVE; every
other entry stays as it is (R38, R39, R43, R76, R100, R101). A record is finished where each of its slots is FINAL; its
RESULT says its tag, its class and each slot's outcome and flags, and each slot adds 1 to its station's tally of the
outcome, up to 4,294,967,295 (R42 to R45). A slot that a withdrawal, a station's leaving ARMED or a flush ends keeps its
figures but for the entry count, which is then 0 (R40, R52; the 0 is log 21). With the table empty in DRAINING the line
goes to STANDBY and its NOTICE is queued (R137; its fault cause NONE is log 20). -/
def Obligations.CrossingEndsAndStartsEntries : Prop :=
  (∀ (b : Block) (c : Nat) (ret : List Bool),
    crossing c ret b =
      refresh ret
        (drainDone
          (retireFinished
            ([0, 1, 2, 3].foldl
              (fun acc st =>
                let started := startAtCrossing st c (endAtCrossing st c acc)
                ((started.track.table.filter fun r =>
                    (r.slots.get st).any fun sl => sl.state = .waiting ∧ sl.commitSlice = (c : Int)).map
                  (·.tag)).foldl (fun a tag => commitAt st tag a) started)
              { b with pos := { b.pos with slice := c } })))) ∧
  (∀ b : Block, ∀ gone : List ParticleRecord, gone = b.track.table.filter (·.finished) →
    retireFinished b =
      { b with
        track :=
          { table := b.track.table.filter fun r => !r.finished
            outcomes := gone.foldl countOutcomes b.track.outcomes }
        msg := offerAll (resultsOf gone) b.msg }) ∧
  (∀ b : Block,
    (b.line.state = .draining → b.track.table = [] →
      drainDone b =
        { b with
          line := { b.line with state := .standby }
          msg := offerReport (.lineNotice .draining .standby .drainDone .none) b.msg }) ∧
    ((b.line.state ≠ .draining ∨ b.track.table ≠ []) → drainDone b = b)) ∧
  (∀ (r : ParticleRecord) (st : StationId) (f : Slot → Slot),
    r.updateSlot st f = { r with slots := r.slots.set st ((r.slots.get st).map f) }) ∧
  (∀ x : SlotState, x.isFinal = true ↔ ∃ o, x = .final o) ∧
  (∀ x : EntryState, x.isActive = true ↔ ∃ start confirmed, x = .active start confirmed) ∧
  (∀ r : ParticleRecord,
    (r.finished = true ↔ ∀ st sl, r.slots.get st = some sl → ∃ o, sl.state = .final o) ∧
    ∃ slots, r.resultBody = .result r.tag r.cls slots ∧
      ∀ st,
        (r.slots.get st = none → slots.get st = none ∧
          ∀ tallies, (countOutcomes tallies r).get st = tallies.get st) ∧
        ∀ sl o, r.slots.get st = some sl → sl.state = .final o → slots.get st = some (o, sl.flags) ∧
          ∀ tallies, (countOutcomes tallies r).get st =
            (tallies.get st).modify o.code fun n => if n < 4294967295 then n + 1 else n) ∧
  (∀ (sl : Slot) (final : SlotOutcome → Slot),
    (∀ o, final o = { sl with state := .final o, figures := sl.figures.map fun g => { g with entries := 0 } }) →
    (∀ o, sl.ended o = final o) ∧
    sl.stationLeft =
      (if sl.state = .committed then final .masked else if sl.state = .active then final .aborted else sl) ∧
    sl.aborted = if sl.state.isFinal = true then sl else final .aborted) ∧
  (∀ (b : Block) (st : StationId) (c : Nat) (ending : List Entry),
    ending = (b.lists.get st).filter (fun e => e.offSlice = c) →
    endAtCrossing st c b = ending.foldl (endEntry st true id) b ∧
    (endAtCrossing st c b).lists =
      b.lists.set st
        ((b.lists.get st).filter fun f => ∀ e ∈ ending, e.channel ≠ f.channel ∨ e.onSlice ≠ f.onSlice)) ∧
  (∀ (b : Block) (st : StationId) (completed : Bool) (mark : SlotFlags → SlotFlags) (e : Entry) (l : List Entry),
    l = (b.lists.get st).filter (fun f => f.channel ≠ e.channel ∨ f.onSlice ≠ e.onSlice) →
    endEntry st completed mark b e =
      { b with
        lists := b.lists.set st l
        track :=
          { b.track with
            table :=
              b.track.table.map fun r =>
                r.updateSlot st
                  ((Slot.loseEntry r.action completed
                    (decide (∃ f ∈ l, f.state.isActive = true ∧ r.tag ∈ f.tags)) mark)^[e.tags.count r.tag]) } }) ∧
  (∀ (action : Action) (completed anyActive : Bool) (mark : SlotFlags → SlotFlags) (sl : Slot),
    ((sl.state = .waiting ∨ sl.state.isFinal = true) → Slot.loseEntry action completed anyActive mark sl = sl) ∧
    (∀ (g : Figures) (done : Nat), (sl.state = .committed ∨ sl.state = .active) → sl.figures = some g →
      done = (if completed = true then g.completions + 1 else g.completions) →
      Slot.loseEntry action completed anyActive mark sl =
        { sl with
          state :=
            if g.entries ≤ 1 then
              .final (if done = 0 then .channelFault else if action = .eject then .ejected else .shielded)
            else if anyActive = true then .active else .committed
          figures := some { g with entries := g.entries - 1, completions := done }
          flags := mark sl.flags })) ∧
  (∀ (b : Block) (st : StationId) (c : Nat) (l : List Entry), l = b.lists.get st →
    startAtCrossing st c b =
      { b with
        lists :=
          b.lists.set st
            (l.map fun e =>
              if e.onSlice = c ∧ e.state = .committed then { e with state := .active b.clock false } else e)
        track :=
          { b.track with
            table :=
              b.track.table.map fun r =>
                if ∃ e ∈ l, e.onSlice = c ∧ e.state = .committed ∧ r.tag ∈ e.tags then
                  r.updateSlot st fun sl => if sl.state = .committed then { sl with state := .active } else sl
                else r }
        stations :=
          b.stations.set st
            { b.stations.get st with
              channels :=
                (b.stations.get st).channels.mapIdx fun i ch =>
                  if (∃ e ∈ l, e.onSlice = c ∧ e.state = .committed ∧ e.kind = .eject ∧ e.channel = i) ∧
                      ch.confirm = none then
                    { ch with confirm := some b.clock }
                  else ch } }) ∧
  ∀ (b : Block) (st : StationId) (c : Nat) (e : Entry),
    e ∈ (startAtCrossing st c (endAtCrossing st c b)).lists.get st →
    e.offSlice ≠ c ∧ (e.onSlice = c → e.state.isActive = true)

/-! ### Intake unit -/

/-- DETECTION_BYTE: in SEEKING the start byte begins a frame and every other byte is ignored; in IN_FRAME, within the gap
time, a good length byte, every record byte and the first check byte are collected, whatever their value, and nothing else
changes; from the start of a reset to the end of STARTUP no byte is examined. -/
def Obligations.DetectionReceiverSeeksTheStartByte : Prop :=
  ∀ (s : State) (v : Byte),
    (s.resetting = none → s.line.state ≠ .startup → s.intake.receiver = .seeking →
      exec (.detectionByte v) s = .next
        { s with
          intake := if v = 0xD3#8 then { s.intake with receiver := .inFrame [] s.clock } else s.intake
          msg := s.settledMsg }) ∧
    (∀ (bytes rest : List Byte) (last : Nat) (len : Byte), s.resetting = none → s.line.state ≠ .startup →
      s.intake.receiver = .inFrame bytes last → s.clock ≤ last + 200 → bytes ++ [v] = len :: rest →
      len.toNat ∈ [10, 20, 30, 40, 50, 60, 70, 80] → rest.length ≤ len.toNat + 1 →
      exec (.detectionByte v) s = .next
        { s with
          intake := { s.intake with receiver := .inFrame (bytes ++ [v]) s.clock }
          msg := s.settledMsg }) ∧
    ((s.resetting ≠ none ∨ s.line.state = .startup) → exec (.detectionByte v) s = .next s)

/-- DETECTION_BYTE: the last check byte of a good frame offers its records in order; those beyond 64 are dropped; each
is counted; READY falls from 56 up. A record is ten bytes of the layout of chapter 11 section 2. -/
def Obligations.GoodDetectionFrameIsQueued : Prop :=
  (∀ (s : State) (len low high : Byte) (body : List Byte) (last : Nat),
    s.resetting = none → s.line.state ≠ .startup → s.intake.queue.length ≤ 64 →
    s.intake.receiver = .inFrame (len :: body ++ [low]) last → s.clock ≤ last + 200 →
    body.length = len.toNat → len.toNat ∈ [10, 20, 30, 40, 50, 60, 70, 80] →
    crcBytes (len :: body) = [low, high] →
    s.intake.tallies.received + 8 ≤ 4294967295 → s.intake.tallies.queueFull + 8 ≤ 4294967295 →
    ∃ u, exec (.detectionByte high) s = .next { s with intake := u, msg := s.settledMsg } ∧
      u.receiver = .seeking ∧ u.lastTake = s.intake.lastTake ∧
      u.queue = (s.intake.queue ++ (entriesOf 10 body).map detectionOf).take 64 ∧
      u.ready = (if 56 ≤ u.queue.length then false else s.intake.ready) ∧
      u.tallies =
        { s.intake.tallies with
          received := s.intake.tallies.received + len.toNat / 10
          queueFull := s.intake.tallies.queueFull + (s.intake.queue.length + len.toNat / 10 - 64) }) ∧
  ∀ body : List Byte,
    (entriesOf 10 body).map detectionOf =
      (List.range (body.length / 10)).map fun i =>
        { tag := field body (10 * i) 2
          stamp := field body (10 * i + 2) 3
          confidence := field body (10 * i + 5) 1
          length := field body (10 * i + 6) 2 % 4096
          cls := field body (10 * i + 8) 2 % 64
          firstLane := field body (10 * i + 8) 2 / 64 % 64
          lastLane := field body (10 * i + 8) 2 / 4096 % 16 + 16 * (field body (10 * i + 6) 2 / 4096 % 4) }

/-- DETECTION_GAP_TIMEOUT, and a DETECTION_BYTE whose length byte is wrong or whose check value differs: the frame is
discarded, BAD_FRAME is increased, and the receiver is SEEKING. -/
def Obligations.BadDetectionFrameIsDiscarded : Prop :=
  ∀ (s : State) (bytes : List Byte) (last : Nat),
    s.resetting = none → s.line.state ≠ .startup → s.intake.receiver = .inFrame bytes last →
    (last + 200 < s.clock →
      exec .detectionGapTimeout s = .next
        { s with
          intake :=
            { s.intake with
              receiver := .seeking
              tallies := { s.intake.tallies with badFrame := bump s.intake.tallies.badFrame } }
          msg := s.settledMsg }) ∧
    (∀ v : Byte, s.clock ≤ last + 200 →
      (bytes = [] ∧ v.toNat ∉ [10, 20, 30, 40, 50, 60, 70, 80]) ∨
        (∃ (len low : Byte) (body : List Byte),
          bytes = len :: body ++ [low] ∧ body.length = len.toNat ∧
            len.toNat ∈ [10, 20, 30, 40, 50, 60, 70, 80] ∧ crcBytes (len :: body) ≠ [low, v]) →
      exec (.detectionByte v) s = .next
        { s with
          intake :=
            { s.intake with
              receiver := .seeking
              tallies := { s.intake.tallies with badFrame := bump s.intake.tallies.badFrame } }
          msg := s.settledMsg })

/-- TAKE: the head leaves the queue, READY rises at 48 or less, one disposition tally is increased, and a record that
is not admitted leaves no other trace. The disposition is the first that applies in the order of R24 to R31. Each of the
nine has a tally of its own, increased by 1 up to 4,294,967,295 (R23, R32); the entry read is that of the class (R54). -/
def Obligations.TakeGivesOneDisposition : Prop :=
  (∀ n : Nat, bump n = if n < 4294967295 then n + 1 else n) ∧
  (∀ t : IntakeTallies,
    t.count .notRunning = { t with notRunning := bump t.notRunning } ∧
    t.count .invalid = { t with invalid := bump t.invalid } ∧
    t.count .stale = { t with stale := bump t.stale } ∧
    t.count .held = { t with held := bump t.held } ∧
    t.count .passed = { t with passed := bump t.passed } ∧
    t.count .unsure = { t with unsure := bump t.unsure } ∧
    t.count .duplicate = { t with duplicate := bump t.duplicate } ∧
    t.count .tableFull = { t with tableFull := bump t.tableFull } ∧
    t.count .admitted = { t with admitted := bump t.admitted }) ∧
  (∀ (b : Block) (cls : Nat) (e : RouteEntry), b.settings.routes[cls]? = some e → b.route cls = e) ∧
  ∀ (s : State) (r : DetectionRecord) (rest : List DetectionRecord),
    s.resetting = none → s.line.state ≠ .startup → s.intake.queue = r :: rest →
    (∀ last, s.intake.lastTake = some last → last + 20 ≤ s.clock) →
    (∃ t, exec .take s = .next t ∧
      t.intake =
        { s.intake with
          queue := rest
          ready := if rest.length ≤ 48 then true else s.intake.ready
          lastTake := some s.clock
          tallies := s.intake.tallies.count (dispositionOf s.toBlock r) } ∧
      (dispositionOf s.toBlock r ≠ .admitted → t = { s with intake := t.intake, msg := s.settledMsg })) ∧
    dispositionOf s.toBlock r =
      (if s.line.state ≠ .run then .notRunning
        else if r.length = 0 ∨ r.lastLane < r.firstLane then .invalid
        else if rebuild s.pos.x r.stamp < 0 ∨ (s.settings.staleLimit : Int) < s.pos.x - rebuild s.pos.x r.stamp then
          .stale
        else if (s.toBlock.route r.cls).hold = true then .held
        else if ∀ st, (s.toBlock.route r.cls).stations.get st = false then .passed
        else if r.confidence < (s.toBlock.route r.cls).minConfidence then .unsure
        else if ∃ q ∈ s.track.table, q.tag = r.tag then .duplicate
        else if s.settings.partition.trackCapacity ≤ s.track.table.length then .tableFull
        else .admitted)

/-- TAKE of an admitted record, under every delivery: the head leaves the queue, the record stands in belt order with its
slots, the ranks are those after the choice, and each commit that is due already is made in station order, the records
it finishes retiring with it (log 18). Where none is due and no record is finished, nothing else changes. -/
def Obligations.AdmissionPlacesTheRecord : Prop :=
  (∀ (s : State) (r : DetectionRecord) (rest : List DetectionRecord) (e : RouteEntry) (p : Nat) (record : ParticleRecord)
      (table : List ParticleRecord) (intake : IntakeUnit),
    s.resetting = none → s.intake.queue = r :: rest →
    (∀ last, s.intake.lastTake = some last → last + 20 ≤ s.clock) →
    dispositionOf s.toBlock r = .admitted → e = s.toBlock.route r.cls → rebuild s.pos.x r.stamp = (p : Int) →
    record =
      { tag := r.tag, cls := r.cls, position := p, length := r.length, firstLane := r.firstLane
        lastLane := r.lastLane, confidence := r.confidence, action := e.action, priority := e.priority
        pattern := e.pattern, delivery := e.delivery, report := e.report
        slots := (createSlots s.toBlock e p).1 } →
    table =
      s.track.table.takeWhile (fun q => q.position ≤ p) ++
        record :: s.track.table.dropWhile (fun q => q.position ≤ p) →
    intake =
      { s.intake with
        queue := rest
        ready := if rest.length ≤ 48 then true else s.intake.ready
        lastTake := some s.clock
        tallies := s.intake.tallies.count .admitted } →
    (∀ out, out =
        commitDueSlots r.tag
          { s.toBlock with
            intake := intake
            ranks := (createSlots s.toBlock e p).2
            track := { s.track with table := table } } →
      exec .take s = .next { s with toBlock := { out with msg := startSending s.clock out.msg } }) ∧
    ((∀ st sl, record.slots.get st = some sl → sl.state = .waiting → (s.pos.slice : Int) < sl.commitSlice) →
      (∀ q ∈ table, q.finished = false) →
      exec .take s = .next
        { s with
          intake := intake
          ranks := (createSlots s.toBlock e p).2
          track := { s.track with table := table }
          msg := s.settledMsg })) ∧
  ∀ (tag : Nat) (b : Block),
    commitDueSlots tag b =
      retireFinished
        ([0, 1, 2, 3].foldl
          (fun acc st =>
            if (findSlot tag st acc.track.table).any fun sl =>
                sl.state = .waiting ∧ sl.commitSlice ≤ (acc.pos.slice : Int) then
              retireFinished (commitAt st tag acc)
            else acc) b)

/-- P is the one value from X − 16,777,215 to X whose low 24 bits equal the stamp, as the working computes it (R26). -/
def Obligations.RebuiltPositionIsTheOneInTheWindow : Prop :=
  ∀ (x stamp : Nat) (p : Int), stamp < 16777216 →
    (p = rebuild x stamp ↔ (x : Int) - 16777215 ≤ p ∧ p ≤ x ∧ p % 16777216 = stamp) ∧
    (stamp ≤ x % 16777216 → rebuild x stamp = (x : Int) - (x % 16777216 : Nat) + stamp) ∧
    (x % 16777216 < stamp → rebuild x stamp = (x : Int) - (x % 16777216 : Nat) + stamp - 16777216) ∧
    (stamp = x % 16777216 → rebuild x stamp = x)

/-! ### Route unit and commits -/

/-- The ranks after every choice, and at a take or an AMEND that makes none (R63). -/
def Obligations.ChoiceRotatesTheRanks : Prop :=
  (∀ (ranks : Four Nat) (chosen st : StationId),
    (rotateRanks ranks chosen).get chosen = 0 ∧
    (st ≠ chosen → ranks.get st < ranks.get chosen → (rotateRanks ranks chosen).get st = ranks.get st + 1) ∧
    (st ≠ chosen → ranks.get chosen ≤ ranks.get st → (rotateRanks ranks chosen).get st = ranks.get st) ∧
    (ranks.get chosen = 0 → rotateRanks ranks chosen = ranks) ∧
    (ranks.toList.Perm [0, 1, 2, 3] → (rotateRanks ranks chosen).toList.Perm [0, 1, 2, 3])) ∧
  (∀ (b : Block) (e : RouteEntry) (position : Nat),
    (createSlots b e position).2 =
      if e.delivery = .leastLoaded then
        match chooseStation b e with
        | none => b.ranks
        | some chosen => rotateRanks b.ranks chosen
      else b.ranks) ∧
  (∀ (b : Block) (r : DetectionRecord) (rest : List DetectionRecord), b.intake.queue = r :: rest →
    (takeOne b).ranks =
      if dispositionOf b r = .admitted then (createSlots b (b.route r.cls) (rebuild b.pos.x r.stamp).toNat).2
      else b.ranks) ∧
  (∀ (b : Block) (cls : Nat) (r : ParticleRecord) (e : RouteEntry), e = b.route cls →
    ((∀ st sl, r.slots.get st = some sl → sl.state = .waiting ∨ sl.state = .final .notChosen) →
      e.hold = false → (∃ st, e.stations.get st = true) → e.minConfidence ≤ r.confidence →
      (amendRecord cls r b).1.ranks = (createSlots b e r.position).2) ∧
    (((∃ st sl, r.slots.get st = some sl ∧ sl.state ≠ .waiting ∧ sl.state ≠ .final .notChosen) ∨
        e.hold = true ∨ (∀ st, e.stations.get st = false) ∨ r.confidence < e.minConfidence) →
      (amendRecord cls r b).1.ranks = b.ranks))

/-- The station chosen is ARMED and in the set, no candidate's list is shorter, and none of equal length has a higher
rank (R62). A new record has a slot for each station of its set and no other: WAITING, but under LEAST_LOADED only the
chosen one is, the others FINAL with NOT_CHOSEN, or all with MASKED where none is chosen (R36, R50); what a slot created
FINAL shows as commit slice is a free value (log 14). -/
def Obligations.ChoiceTakesTheShortestList : Prop :=
  ∀ (b : Block) (e : RouteEntry),
    (chooseStation b e = none ↔ ∀ st, e.stations.get st = true → (b.station st).state ≠ .armed) ∧
    (∀ chosen, chooseStation b e = some chosen →
      e.stations.get chosen = true ∧ (b.station chosen).state = .armed ∧
      ∀ st, e.stations.get st = true → (b.station st).state = .armed →
        (b.lists.get chosen).length ≤ (b.lists.get st).length ∧
        ((b.lists.get st).length = (b.lists.get chosen).length → b.ranks.get st ≤ b.ranks.get chosen)) ∧
    ∀ (p : Nat) (st : StationId) (slice : Int),
      slice =
        (((p + (b.settings.stations.get st).leadDistance) / b.settings.sliceLength : Nat) : Int) -
          (b.settings.stations.get st).horizon →
      (createSlots b e p).1.get st =
        if e.stations.get st = false then none
        else if e.delivery = .leastLoaded ∧ chooseStation b e = none then
          some ⟨.final .masked, Config.finalSlotCommitSlice slice, none, ⟨false, false, false, false, false⟩⟩
        else if e.delivery = .leastLoaded ∧ chooseStation b e ≠ some st then
          some ⟨.final .notChosen, Config.finalSlotCommitSlice slice, none, ⟨false, false, false, false, false⟩⟩
        else some ⟨.waiting, slice, none, ⟨false, false, false, false, false⟩⟩

/-- Stages c to f: the slices, the minimum on, the cap, and lateness (R82 to R84); and the whole of stages a to h
(R80 to R87): the lead, the switch positions, MISSED for a span before the start, the span, the channel range, the
channels that are OK, and the entries to be written, each failure with the flags set so far. -/
def Obligations.SpanStagesFollowTheArithmetic : Prop :=
  (∀ a b s : Nat, 0 < s → a < b →
    (a / s * s ≤ a ∧ a < a / s * s + s) ∧ (b ≤ ceilDiv b s * s ∧ ceilDiv b s * s < b + s) ∧ a / s < ceilDiv b s) ∧
  (∀ on off minOn cap : Nat, on < off → 1 ≤ minOn → 1 ≤ cap →
    lengthened on off minOn - on = max (off - on) minOn ∧
    capped on (lengthened on off minOn) cap - on = min (max (off - on) minOn) cap ∧
    on < capped on (lengthened on off minOn) cap) ∧
  (∀ on off c : Nat, on < off →
    (c + 1 ≤ on → lateOn on off c = some on) ∧
    (on < c + 1 → c + 1 < off → lateOn on off c = some (c + 1)) ∧
    (on < c + 1 → off ≤ c + 1 → lateOn on off c = none)) ∧
  ∀ (r : ParticleRecord) (cfg : StationSettings) (p : Pattern) (known : Bool) (chans : List Channel)
    (c v s k : Nat) (a b : Int),
    0 < s → 1 ≤ p.minOn → 1 ≤ p.maxOn → 1 ≤ cfg.maxOn →
    cfg.latency * v ≤ 8192 * k → 8192 * k < cfg.latency * v + 8192 →
    a = (r.position : Int) + cfg.leadDistance - p.lead - k →
    b = (r.position : Int) + r.length + cfg.leadDistance + p.trail - k →
    (b ≤ 0 → planCommit r cfg p known chans c v s = .error (.missed, ⟨false, false, false, false, !known⟩)) ∧
    (0 < b → ∀ on off long cap cut : Nat, on = (max a 0).toNat / s →
      (b ≤ (off * s : Nat) ∧ ((off * s : Nat) : Int) < b + s) →
      long = max off (on + p.minOn) → cap = min p.maxOn cfg.maxOn → cut = min long (on + cap) →
      (max on (c + 1) ≥ cut →
        planCommit r cfg p known chans c v s =
          .error (.missed, ⟨false, decide (on + cap < long), false, false, !known⟩)) ∧
      (max on (c + 1) < cut → ∀ (first last : Nat) (usable : List Nat) (flags : SlotFlags),
        first = r.firstLane * cfg.channels / 64 - p.widen →
        last = min (r.lastLane * cfg.channels / 64 + p.widen) (cfg.channels - 1) →
        usable = (List.range' first (last + 1 - first)).filter (fun ch => (channelAt chans ch).fault = none) →
        flags =
          ⟨decide (on < c + 1), decide (on + cap < long), false, false,
            !known || (List.range' first (last + 1 - first)).any fun ch => (channelAt chans ch).fault.isSome⟩ →
        planCommit r cfg p known chans c v s =
          if usable = [] then .error (.channelFault, flags)
          else
            .ok
              { onSlice := max on (c + 1), offSlice := cut, firstChannel := first, lastChannel := last, flags := flags
                newcomers :=
                  usable.map fun ch =>
                    { channel := ch, onSlice := max on (c + 1), offSlice := cut, kind := r.action
                      priority := r.priority, tags := [r.tag], state := .committed } }))

/-- Checks 5 to 7 (R90 to R98): which entries a newcomer meets, its partners where their merge is feasible, its opponents,
the commits refused for an opponent that is not beaten, the list as it would stand, and its capacity and air. The order
of a joined entry's tags is the model's (log 16). A commit that passes beats COMMITTED entries of lower priority alone,
keeps the list within its capacity and in order, and keeps the air count of every slice within the limit. An entry is
written in ascending order of on slice and then of channel, behind those of the same two (R88, R96, R99). -/
def Obligations.SettledCommitKeepsCapacityAndAir : Prop :=
  (∀ (minGap : Nat) (n e : Entry), n.onSlice < n.offSlice → e.onSlice < e.offSlice →
    (overlaps e n = true ↔ n.onSlice < e.offSlice ∧ e.onSlice < n.offSlice) ∧
    (related minGap n e = true ↔
      n.channel = e.channel ∧
        if n.kind = .eject ∧ e.kind = .eject then
          n.onSlice < e.offSlice + minGap ∧ e.onSlice < n.offSlice + minGap
        else if n.kind = e.kind then n.onSlice ≤ e.offSlice ∧ e.onSlice ≤ n.offSlice
        else n.onSlice < e.offSlice ∧ e.onSlice < n.offSlice)) ∧
  (∀ (cfg : StationSettings) (l : List Entry) (n : Entry) (cands : List Entry) (lo hi : Nat)
      (others : Nat → Nat → List Entry),
    cands = l.filter (fun e => e.kind = n.kind ∧ related cfg.minGap n e = true) →
    lo = (cands.map (·.onSlice)).foldl min n.onSlice → hi = (cands.map (·.offSlice)).foldl max n.offSlice →
    (∀ on off, others on off =
      l.filter fun e =>
        e.channel = n.channel ∧ e.kind ≠ n.kind ∧ overlaps e { n with onSlice := on, offSlice := off } = true) →
    bidOf cfg l n =
      if cands = [] then ⟨n, [], others n.onSlice n.offSlice⟩
      else if (cands.flatMap (·.tags) ++ n.tags).dedup.length ≤ 4 ∧ (n.kind = .eject → hi - lo ≤ cfg.maxOn) then
        ⟨n, cands, others lo hi⟩
      else ⟨n, [], cands ++ others n.onSlice n.offSlice⟩) ∧
  (∀ (t : List ParticleRecord) (l : List Entry) (cfg : StationSettings) (capacity : Nat) (st : StationId)
      (r : ParticleRecord) (plan : Plan) (bids : List Bid) (opponents kept list : List Entry) (displaced : List Nat)
      (left : Bid → List Entry) (written : List Written),
    bids = plan.newcomers.map (bidOf cfg l) → opponents = bids.flatMap (·.opponents) →
    displaced = (opponents.flatMap (·.tags)).dedup → kept = withdrawTags t displaced l →
    (∀ bid, left bid =
      kept.filter fun e => ∃ f ∈ bid.partners, f.channel = e.channel ∧ f.onSlice = e.onSlice) →
    written =
      bids.map (fun bid =>
        let tags := ((left bid).flatMap (·.tags) ++ bid.entry.tags).dedup
        if left bid = [] then ⟨bid.entry, false⟩
        else
          ⟨{ bid.entry with
              onSlice := ((left bid).map (·.onSlice)).foldl min bid.entry.onSlice
              offSlice := ((left bid).map (·.offSlice)).foldl max bid.entry.offSlice
              tags := tags
              priority := (tags.map (tagPriority t)).foldl max 0
              state := (((left bid).map (·.state)).find? (·.isActive)).getD .committed }, true⟩) →
    list =
      written.foldl (fun acc w => insertEntry w.entry acc)
        (kept.filter fun e => ∀ bid ∈ bids, ∀ f ∈ bid.partners, f.channel ≠ e.channel ∨ f.onSlice ≠ e.onSlice) →
    settleCommit t l cfg capacity st r plan =
      if ∃ o ∈ opponents, o.state ≠ .committed ∨ r.priority ≤ o.priority ∨
          ∃ tag ∈ o.tags, (findSlot tag st t).map (·.state) ≠ some .committed then
        .error .refused
      else if capacity < list.length then .error .listFull
      else if r.action = .eject ∧ ∃ w ∈ written,
          ∃ slice ∈ List.range' w.entry.onSlice (w.entry.offSlice - w.entry.onSlice),
            cfg.concurrency < airCount list slice then
        .error .airLimit
      else .ok ⟨list, displaced, written⟩) ∧
  (∀ (l : List Entry) (slice : Nat),
    airCount l slice =
      ((l.filter fun e => e.kind = .eject ∧ e.onSlice ≤ slice ∧ slice < e.offSlice).map (·.channel)).dedup.length) ∧
  (∀ (e : Entry) (l : List Entry) (behind : Entry → Bool),
    (∀ f, behind f = true ↔ e.onSlice < f.onSlice ∨ e.onSlice = f.onSlice ∧ e.channel < f.channel) →
    insertEntry e l = l.takeWhile (fun f => !behind f) ++ e :: l.dropWhile fun f => !behind f) ∧
  (∀ (t : List ParticleRecord) (tag : Nat),
    findRecord tag t = t.find? (fun r => decide (r.tag = tag)) ∧
    (∀ st, findSlot tag st t = (findRecord tag t).bind fun r => r.slots.get st) ∧
    ∀ r, findRecord tag t = some r → tagPriority t tag = r.priority) ∧
  ∀ (t : List ParticleRecord) (l : List Entry) (cfg : StationSettings) (capacity : Nat) (st : StationId)
    (r : ParticleRecord) (plan : Plan) (x : Settlement) (inOrder : List Entry → Prop),
    (∀ k, inOrder k ↔
      k.Pairwise fun e f => e.onSlice < f.onSlice ∨ e.onSlice = f.onSlice ∧ e.channel ≤ f.channel) →
    (∀ n ∈ plan.newcomers, n.kind = r.action) →
    settleCommit t l cfg capacity st r plan = .ok x →
    (∀ n ∈ plan.newcomers, ∀ o ∈ (bidOf cfg l n).opponents, o.state = .committed ∧ o.priority < r.priority) ∧
    x.list.length ≤ capacity ∧ (inOrder l → inOrder x.list) ∧
    ((∀ slice, airCount l slice ≤ cfg.concurrency) → ∀ slice, airCount x.list slice ≤ cfg.concurrency)

/-- A commit, whole (R78 to R99): a slot that is not WAITING is not evaluated; at a station that is not ARMED it ends
MASKED, and an EJECT at or below the effective floor FLOORED: the larger of floor and low-air floor at a NOZZLE station
while AIR-LOW is taken as asserted, and else the floor (R69); a check that fails ends it with its outcome and the flags
set so far; one that passes is applied: the displaced slots end, the list is as settled, the slot takes its figures, and
every slot of a joined entry is marked MERGED and is ACTIVE where the entry is. Nothing else changes. -/
def Obligations.FirstTwoChecksEndTheSlot : Prop :=
  (∀ (b : Block) (st : StationId) (tag : Nat),
    (∀ r sl, findRecord tag b.track.table = some r → r.slots.get st = some sl → sl.state ≠ .waiting) →
    commitAt st tag b = b) ∧
  (∀ (b : Block) (st : StationId) (tag : Nat) (r : ParticleRecord) (sl : Slot) (limit : Nat)
      (fail : SlotOutcome → SlotFlags → Block) (planned : Except (SlotOutcome × SlotFlags) Plan) (pattern : Pattern)
      (known : Bool),
    findRecord tag b.track.table = some r → r.slots.get st = some sl → sl.state = .waiting →
    limit =
      (if (b.settings.stations.get st).kind = .nozzle ∧ b.line.airLow.taken = true then
        max (b.settings.floors.get st).floor (b.settings.floors.get st).lowAir
      else (b.settings.floors.get st).floor) →
    (∀ o f, fail o f =
      { b with
        track :=
          { b.track with
            table :=
              b.track.table.map fun q =>
                if q.tag = tag then q.updateSlot st fun x => { x with state := .final o, flags := f } else q } }) →
    (patternAt b.settings r.pattern = some pattern ∧ known = true ∨
      patternAt b.settings r.pattern = none ∧ pattern = ⟨0, 0, 0, 1, 4095⟩ ∧ known = false) →
    planned =
      planCommit r (b.config st) pattern known (b.station st).channels b.pos.slice b.pos.v b.settings.sliceLength →
    ((b.station st).state ≠ .armed → commitAt st tag b = fail .masked ⟨false, false, false, false, false⟩) ∧
    ((b.station st).state = .armed →
      (r.action = .eject → r.priority ≤ limit →
        commitAt st tag b = fail .floored ⟨false, false, false, false, false⟩) ∧
      ((r.action = .eject → limit < r.priority) →
        (∀ o f, planned = .error (o, f) → commitAt st tag b = fail o f) ∧
        ∀ (plan : Plan) (settled : Except SlotOutcome Settlement), planned = .ok plan →
          settled =
            settleCommit b.track.table (b.lists.get st) (b.config st) b.settings.partition.listCapacity st r plan →
          (∀ o, settled = .error o → commitAt st tag b = fail o plan.flags) ∧
          ∀ x, settled = .ok x → commitAt st tag b = applyCommit st r plan x b))) ∧
  (∀ (s : Settings) (code : Nat) (rom : List Pattern), s.patterns.length = s.partition.ramPatterns →
    rom =
      [⟨0, 0, 0, 1, 4095⟩, ⟨8, 8, 0, 1, 4095⟩, ⟨16, 24, 1, 2, 4095⟩, ⟨32, 32, 1, 2, 64⟩, ⟨0, 0, 2, 1, 32⟩,
        ⟨24, 48, 0, 4, 4095⟩, ⟨64, 64, 2, 4, 4095⟩, ⟨0, 0, 3, 8, 8⟩] →
    (code < 8 → patternAt s code = rom[code]?) ∧ (8 ≤ code → patternAt s code = s.patterns[code - 8]?)) ∧
  ∀ (b : Block) (st : StationId) (r : ParticleRecord) (plan : Plan) (x : Settlement)
    (slotAfter : Nat → Slot → Slot) (active : Bool),
    (active = true ↔ ∃ e ∈ x.list, e.state.isActive = true ∧ r.tag ∈ e.tags) →
    (∀ tag sl, slotAfter tag sl =
      let displaced := if tag ∈ x.displaced then sl.ended .displaced else sl
      let committed :=
        if tag = r.tag then
          { displaced with
            state := if active = true then .active else .committed
            figures :=
              some ⟨plan.onSlice, plan.offSlice, plan.firstChannel, plan.lastChannel,
                x.list.countP fun e => r.tag ∈ e.tags, 0⟩
            flags := plan.flags }
        else displaced
      if ∃ w ∈ x.written, w.joined = true ∧ tag ∈ w.entry.tags then
        { committed with
          flags := { committed.flags with merged := true }
          state :=
            if committed.state = .committed ∧
                ∃ w ∈ x.written, w.joined = true ∧ tag ∈ w.entry.tags ∧ w.entry.state.isActive = true then
              .active
            else committed.state }
      else committed) →
    applyCommit st r plan x b =
      { b with
        lists := b.lists.set st x.list
        track := { b.track with table := b.track.table.map fun q => q.updateSlot st (slotAfter q.tag) } }

/-- A withdrawn tag stands in no entry; an entry that keeps a tag stays, with its channel, span, kind, state and place, and
its priority set from the tags that remain; an entry without any of the tags stays as it is; no other entry is left
(R89, R104). -/
def Obligations.WithdrawalTakesTheTagsOut : Prop :=
  ∀ (t : List ParticleRecord) (gone : List Nat) (l : List Entry),
    (∀ e ∈ withdrawTags t gone l,
      e.tags ≠ [] ∧ (∀ tag ∈ gone, tag ∉ e.tags) ∧
      ∃ f ∈ l, e.channel = f.channel ∧ e.onSlice = f.onSlice ∧ e.offSlice = f.offSlice ∧ e.kind = f.kind ∧
        e.state = f.state ∧ e.tags = f.tags.filter (fun tag => !gone.contains tag) ∧
        (e.tags = f.tags → e = f) ∧ (e.tags ≠ f.tags → e.priority = highestPriority t e.tags)) ∧
    (∀ f ∈ l, (∃ tag ∈ f.tags, tag ∉ gone) →
      ∃ e ∈ withdrawTags t gone l,
        e.channel = f.channel ∧ e.onSlice = f.onSlice ∧ e.offSlice = f.offSlice ∧ e.kind = f.kind ∧ e.state = f.state ∧
          e.tags = f.tags.filter (fun tag => !gone.contains tag) ∧
          (e.tags = f.tags → e = f) ∧ (e.tags ≠ f.tags → e.priority = highestPriority t e.tags)) ∧
    (∀ e ∈ l, e.tags ≠ [] → (∀ tag ∈ gone, tag ∉ e.tags) → e ∈ withdrawTags t gone l) ∧
    (∀ tags : List Nat,
      (∀ tag ∈ tags, ∀ r, findRecord tag t = some r → r.priority ≤ highestPriority t tags) ∧
        (highestPriority t tags = 0 ∨
          ∃ tag ∈ tags, ∃ r, findRecord tag t = some r ∧ r.priority = highestPriority t tags)) ∧
    ((withdrawTags t gone l).map fun e => (e.channel, e.onSlice)).Sublist (l.map fun e => (e.channel, e.onSlice))

/-! ### Start-up, census, refresh -/

/-- LOAD_END: the working settings are the image's with every hold off, or the factory defaults (R174, written out in
`FactoryDefaults`) with SETTINGS_LOST;
the lock is SEALED where a reset of the line or of RESTART found it SEALED, and otherwise the default as loaded; the
census begins. -/
def Obligations.LoadTakesTheImageOrTheDefaults : Prop :=
  ∀ (s : State) (loaded : Settings) (mode : LockMode),
    s.resetting = none → s.store.loading = true →
    (s.store.image.sound = true →
      loaded =
        { s.store.image.contents with
          routes := s.store.image.contents.routes.map fun e => { e with hold := false } }) →
    (s.store.image.sound = false → FactoryDefaults loaded) →
    mode =
      (if (s.line.record.cause = .resetLine ∨ s.line.record.cause = .restartRequest) ∧ s.store.lock = .sealed
        then .sealed else loaded.defaultLock) →
    exec .loadEnd s = .next
      { s with
        settings := loaded
        line := { s.line with settingsLost := !s.store.image.sound }
        store := { s.store with loading := false, lock := mode, lockCopy := mode }
        chain := { s.chain with census := true }
        msg := s.settledMsg }

/-- CENSUS_END in STARTUP: the board count and result, the refresh timer, the scan slice, the reverse flag, READY, the
first beacon, and HALT or STANDBY by the taken state of HALT; START and then the line NOTICE are queued (its fault cause
NONE is log 20). -/
def Obligations.EndOfStartupWakesTheBlocks : Prop :=
  ∀ (s : State) (trials : List (Option Nat)) (boards : Nat) (ok : Bool) (new : LineState),
    s.resetting = none → s.chain.census = true → s.line.state = .startup →
    ((ok = true ∧ boards ≤ 4 ∧ trials = List.replicate 16 (some (32 * boards))) ∨
      (ok = false ∧ boards = 0 ∧ ∀ k ≤ 4, trials ≠ List.replicate 16 (some (32 * k)))) →
    new = (if s.line.halt.taken = true then .halt else .standby) →
    ∃ t, exec (.censusEnd trials) s = .next t ∧
      t.line = { s.line with state := new } ∧
      t.chain =
        { s.chain with boards := boards, censusOk := ok, census := false, refreshStart := some s.clock } ∧
      t.pos.n = s.pos.n ∧ t.pos.x = s.pos.x ∧ t.pos.v = s.pos.v ∧
      t.pos.slice = s.pos.x / s.settings.sliceLength ∧
      t.pos.reverseFlag =
        (if s.settings.reverseLimit < s.pos.backlash then true
        else if s.pos.backlash = 0 then false else s.pos.reverseFlag) ∧
      t.pos.beaconStart = some s.clock ∧ t.pos.beacon = some (beaconFrame s.pos.x s.pos.v new) ∧
      t.intake = { s.intake with ready := true } ∧
      t.msg = startSending s.clock
        (offerReport (.lineNotice .startup new .start .none)
          (offerReport (.start s.line.record.cause s.line.settingsLost boards ok s.settings.partition) s.msg)) ∧
      t.settings = s.settings ∧ t.stations = s.stations ∧ t.track = s.track ∧ t.lists = s.lists

/-- CENSUS_END in FAULT: with a good census, HALT released and not asserted during the census, the line enters STANDBY and
the reply is OK; otherwise it stays in FAULT, with CHAIN where the census failed, and the reply is WRONG_STATE where HALT
is asserted or has been during the census and NO_BOARD else, with the cause and the board count (R144). The fault cause
NONE in the NOTICE of the cleared line is log 20. -/
def Obligations.ClearFaultEndsWithItsCensus : Prop :=
  ∀ (s : State) (trials : List (Option Nat)) (boards : Nat) (ok : Bool),
    s.resetting = none → s.chain.census = true → s.line.state = .fault →
    ((ok = true ∧ boards ≤ 4 ∧ trials = List.replicate 16 (some (32 * boards))) ∨
      (ok = false ∧ boards = 0 ∧ ∀ k ≤ 4, trials ≠ List.replicate 16 (some (32 * k)))) →
    ∀ chain : ChainUnit,
    chain = { s.chain with boards := boards, censusOk := ok, census := false, refreshStart := some s.clock } →
    (ok = true → s.line.halt.taken = false → s.line.haltInCensus = false →
      exec (.censusEnd trials) s = .next
        { s with
          chain := chain
          line := { s.line with state := .standby, fault := .none }
          msg :=
            (offerReport (.lineNotice .fault .standby .clearFault .none) s.msg).replying s.clock 0x80#8 .ok
              (byte boards) }) ∧
    (∀ kept : FaultCause, kept = (if ok = true then s.line.fault else .chain) →
      (s.line.halt.taken = true ∨ s.line.haltInCensus = true ∨ ok = false) →
      exec (.censusEnd trials) s = .next
        { s with
          chain := chain
          line := { s.line with fault := kept }
          msg :=
            s.msg.replying s.clock 0x80#8
              (if s.line.halt.taken = true ∨ s.line.haltInCensus = true then .wrongState else .noBoard)
              (byte kept.code ++ byte boards) })

/-- A refresh with the marker whole, at a crossing or at REFRESH_TIMER_EXPIRY, whenever its timer began; none is made in a
reset, in STARTUP or in a census (R126): the feedback is stored, outputs past the boards reading off, the chain
error flag is cleared and the timer restarts; station control takes its steps for stations 0 to 3 in turn, each with all
its reports (the order between stations is the model's, log 37), the calibration takes its own behind them (log 24),
finished records retire behind the steps of all stations, their RESULTs behind the NOTICEs of the channels and stations
(log 17), and a drain may be done. The steps of an ARMED station are the confirm checks by channel, the time limit, the stuck
checks by channel and the station fault, each as R117 to R123 and R130 give it (that a slot a station fault ends shows
entry count 0 is log 21); another station is not touched. The position unit, intake, ranks and settings store are not
touched. -/
def Obligations.SoundRefreshStoresTheFeedback : Prop :=
  (∀ (b : Block) (ret : List Bool) (begun sent stored out : Block),
    b.resetting = none → b.line.state ≠ .startup → b.chain.census = false →
    (ret.drop (32 * b.chain.boards)).take 16 = List.replicate 8 true ++ List.replicate 8 false →
    begun = beginShots b →
    sent =
      [0, 1, 2, 3].foldl markSent
        { begun with chain := { b.chain with outputs := outputStates begun, refreshStart := some b.clock } } →
    stored =
      { sent with
        chain :=
          { b.chain with
            outputs := outputStates begun
            feedback := ret.take (32 * b.chain.boards) ++ List.replicate (128 - 32 * b.chain.boards) false
            chainError := false
            refreshStart := some b.clock } } →
    out = drainDone (retireFinished (calibrationStep b.maint ([0, 1, 2, 3].foldl stationRefresh stored))) →
    refresh ret b = out ∧
      out.chain = stored.chain ∧ out.pos = b.pos ∧ out.intake = b.intake ∧ out.ranks = b.ranks ∧ out.store = b.store ∧
      out.clock = b.clock) ∧
  (∀ (b : Block) (ret : List Bool),
    (b.resetting ≠ none ∨ b.line.state = .startup ∨ b.chain.census = true) → refresh ret b = b) ∧
  (∀ (s : State) (ret : List Bool) (start : Nat) (out : Block),
    s.resetting = none → s.line.state ≠ .startup → s.chain.census = false →
    s.chain.refreshStart = some start → start + 100 ≤ s.clock → out = refresh ret s.toBlock →
    exec (.refreshTimerExpiry ret) s =
      .next { s with toBlock := { out with msg := startSending s.clock out.msg } }) ∧
  (∀ (b : Block) (st : StationId) (x : Station) (c : StationSettings), x = b.stations.get st →
    c = b.settings.stations.get st →
    (x.state ≠ .armed → markSent b st = b ∧ stationRefresh b st = b) ∧
    (x.state = .armed →
      markSent b st =
        { b with
          stations :=
            b.stations.set st
              { x with
                channels :=
                  x.channels.mapIdx fun i ch =>
                    if i < c.channels ∧ b.chain.outputs.getD (c.firstOutput + i) false = true then
                      { ch with lastOn := some b.clock }
                    else ch } } ∧
      stationRefresh b st =
        stationFault st
          ((List.range c.channels).foldl (stuckCheck st)
            (timeLimit st ((List.range c.channels).foldl (confirmCheck st) b))))) ∧
  (∀ (b : Block) (st : StationId) (ch : Nat) (x : Station) (c : StationSettings) (z : Channel), x = b.stations.get st →
    c = b.settings.stations.get st → x.channels[ch]? = some z →
    (z.confirm = none → confirmCheck st b ch = b) ∧
    (∀ start, z.confirm = some start →
      (c.confirmWindow < b.clock - start → confirmCheck st b ch = channelFault st ch .noConfirm b) ∧
      (b.clock - start ≤ c.confirmWindow →
        (b.chain.feedback.getD (c.firstOutput + ch) false = false → confirmCheck st b ch = b) ∧
        (b.chain.feedback.getD (c.firstOutput + ch) false = true →
          confirmCheck st b ch =
            { b with
              stations := b.stations.set st { x with channels := x.channels.set ch { z with confirm := none } }
              lists :=
                b.lists.set st
                  ((b.lists.get st).map fun e =>
                    match e.state with
                    | .active t _ =>
                      if e.channel = ch ∧ e.kind = .eject then { e with state := .active t true } else e
                    | .committed => e) }))) ∧
    (∀ counts : Bool,
      (counts = true ↔
        b.chain.feedback.getD (c.firstOutput + ch) false = true ∧
          b.chain.outputs.getD (c.firstOutput + ch) false = false ∧
          ∀ t, z.lastOn = some t → c.confirmWindow < b.clock - t) →
      (z.fault ≠ none → stuckCheck st b ch = b) ∧
      (z.fault = none → counts = true → 2 ≤ z.stuck → stuckCheck st b ch = channelFault st ch .stuck b) ∧
      (z.fault = none → (counts = false ∨ z.stuck < 2) →
        stuckCheck st b ch =
          { b with
            stations :=
              b.stations.set st
                { x with
                  channels :=
                    x.channels.set ch { z with stuck := if counts = true then z.stuck + 1 else 0 } } })) ∧
    (∀ (cause : ChannelFault) (left : Station) (l : List Entry) (ended : List Entry) (shot : Bool),
      l = b.lists.get st →
      ended =
        l.filter (fun e => e.channel = ch ∧ e.state.isActive = true) ++
          l.filter (fun e => e.channel = ch ∧ e.state.isActive = false) →
      left =
        { x with
          channels := x.channels.set ch { z with fault := some cause, confirm := none, stuck := 0 }
          noConfirm := if cause = .noConfirm then bump x.noConfirm else x.noConfirm
          stuck := if cause = .stuck then bump x.stuck else x.stuck } →
      shot = shotOn b st ch →
      channelFault st ch cause b =
        { b with
          stations := b.stations.set st left
          lists := b.lists.set st (l.filter fun e => e.channel ≠ ch)
          track := (ended.foldl (endEntry st false fun f => { f with degraded := true }) b).track
          maint :=
            match b.maint with
            | .purging p => if shot = true then .purging { p with phase := .gap b.clock } else b.maint
            | .calibrating k => if k.station = st ∧ k.channel = ch then .idle else b.maint
            | .suspended _ => b.maint
            | .idle => b.maint
          msg :=
            offerReport (.channelNotice st ch cause)
              (match b.maint with
              | .calibrating k =>
                if k.station = st ∧ k.channel = ch then
                  offerReport (.done .calibrate .failed (some st) (some ch) 0) b.msg
                else b.msg
              | .purging _ => b.msg
              | .suspended _ => b.msg
              | .idle => b.msg) })) ∧
  ∀ (b : Block) (st : StationId) (x : Station) (c : StationSettings), x = b.stations.get st →
    c = b.settings.stations.get st →
    (∀ old : List Entry,
      old =
        (b.lists.get st).filter (fun e =>
          match e.state with
          | .active t _ => e.kind = .eject ∧ c.maxOnTime < b.clock - t
          | .committed => False) →
      timeLimit st b =
        { b with
          lists :=
            b.lists.set st
              ((b.lists.get st).filter fun f => ∀ e ∈ old, e.channel ≠ f.channel ∨ e.onSlice ≠ f.onSlice)
          track := (old.foldl (endEntry st true fun f => { f with cut := true }) b).track
          stations := b.stations.set st { x with cut := bump^[old.length] x.cut } }) ∧
    ((∃ ch, ch < c.channels ∧ channelOk b st ch = true) → stationFault st b = b) ∧
    ((∀ ch, ch < c.channels → channelOk b st ch = false) →
      stationFault st b =
        { b with
          lists := b.lists.set st []
          track :=
            { b.track with
              table :=
                b.track.table.map fun r =>
                  r.updateSlot st fun sl =>
                    if sl.state = .committed then sl.ended .masked
                    else if sl.state = .active then sl.ended .aborted else sl }
          settings :=
            { b.settings with
              routes :=
                b.settings.routes.map fun e => if e.stations.get st = true then { e with hold := true } else e }
          stations :=
            b.stations.set st
              { x with
                state := .faulted
                enable := false
                settle := none
                channels :=
                  x.channels.map fun ch => { ch with confirm := none, stuck := 0, lastOn := none } }
          maint := b.maintWithout st
          msg :=
            offerAll
              (b.abandonedReports st ++
                [.stationNotice st .armed .faulted .stationFault
                  (b.settings.routes.countP fun e => e.stations.get st)]) b.msg })

/-- A refresh with the marker altered, moved or lost, at a crossing or at REFRESH_TIMER_EXPIRY (which, when due, is that
refresh), whenever its timer began: the feedback keeps its values, the chain error flag is
set, the shots that waited for a refresh have begun, and in every state but FAULT the line stops in FAULT with cause
CHAIN, with everything a stop of the line ends, counts and reports. That from DRAINING no DRAIN_DONE NOTICE is queued within
the fault is the model's reading (log 19), and so is the hold count 0 in the NOTICE of a station that was not ARMED
(log 20). -/
def Obligations.FailedRefreshFaultsTheLine : Prop :=
  (∀ (b begun sent : Block) (ret : List Bool) (t : State),
    b.Shaped → b.resetting = none → b.line.state ≠ .startup → b.chain.census = false →
    (ret.drop (32 * b.chain.boards)).take 16 ≠ List.replicate 8 true ++ List.replicate 8 false →
    begun = beginShots b →
    sent =
      [0, 1, 2, 3].foldl markSent
        { begun with chain := { b.chain with outputs := outputStates begun, refreshStart := some b.clock } } →
    t.toBlock = refresh ret b →
    t.chain = { b.chain with outputs := outputStates begun, chainError := true, refreshStart := some b.clock } ∧
      t.pos = b.pos ∧ t.intake = b.intake ∧ t.ranks = b.ranks ∧ t.store = b.store ∧ t.clock = b.clock ∧
      (b.line.state = .fault →
        t.line = b.line ∧ t.track = b.track ∧ t.lists = b.lists ∧ t.settings = b.settings ∧
          t.stations = sent.stations ∧ t.maint = begun.maint ∧ t.msg = b.msg) ∧
      (b.line.state ≠ .fault →
        t.line = { b.line with state := .fault, fault := .chain } ∧ LineStopped begun t ∧
        t.msg = offerAll (b.stopReports .fault ++ [.lineNotice b.line.state .fault .chain .chain]) b.msg)) ∧
  ∀ (s : State) (ret : List Bool) (start : Nat) (out : Block),
    s.resetting = none → s.line.state ≠ .startup → s.chain.census = false →
    s.chain.refreshStart = some start → start + 100 ≤ s.clock → out = refresh ret s.toBlock →
    exec (.refreshTimerExpiry ret) s = .next { s with toBlock := { out with msg := startSending s.clock out.msg } }

/-- An output state is on only for a channel of an ARMED station that is OK, in RUN or DRAINING under an ACTIVE EJECT
entry or in STANDBY under a maintenance shot, and below 32 × b (R125). A shot is on a channel while a purge is in its shot
there (R177), and while a calibration of it has a shot in progress (R179). The 128 output states a refresh sends are these,
in chain order (R127). A channel is OK where it has no fault, and all of a station's channels are FAULTED where none below
its channel count is OK. -/
def Obligations.OutputsAreOnOnlyWhereCommanded : Prop :=
  (∀ (b : Block) (o : Nat),
    outputState b o = true ↔
      o < 32 * b.chain.boards ∧
      ∃ (st : StationId) (ch : Nat),
        (b.config st).kind ≠ .none ∧ ch < (b.config st).channels ∧ o = (b.config st).firstOutput + ch ∧
        (b.station st).state = .armed ∧ channelOk b st ch = true ∧
        (((b.line.state = .run ∨ b.line.state = .draining) ∧
            ∃ e ∈ b.lists.get st, e.channel = ch ∧ e.kind = .eject ∧ e.state.isActive = true) ∨
          (b.line.state = .standby ∧ shotOn b st ch = true))) ∧
  (∀ b : Block,
    (outputStates b).length = 128 ∧ ∀ o, o < 128 → (outputStates b)[o]? = some (outputState b o)) ∧
  (∀ (b : Block) (st : StationId),
    b.config st = b.settings.stations.get st ∧ b.station st = b.stations.get st ∧
    (∀ ch c, (b.stations.get st).channels[ch]? = some c → (channelOk b st ch = true ↔ c.fault = none)) ∧
    (allFaulted b st = true ↔ ∀ ch, ch < (b.settings.stations.get st).channels → channelOk b st ch = false) ∧
    faultedCount b st =
      ((List.range (b.settings.stations.get st).channels).filter fun ch => !channelOk b st ch).length) ∧
  ∀ (b : Block) (st : StationId) (ch : Nat),
    shotOn b st ch = true ↔
      (∃ (p : Purge) (start : Nat),
          b.maint = .purging p ∧ p.station = st ∧ p.channel = ch ∧ p.phase = .shot start) ∨
        ∃ (k : Calibration) (start : Nat),
          b.maint = .calibrating k ∧ k.station = st ∧ k.channel = ch ∧ k.shot = some start

/-- SETTLE_EXPIRY: the ARMING station becomes ARMED with its counters 0 and its timers idle, and a NOTICE is queued
(its hold count 0 is log 20). -/
def Obligations.SettledStationIsArmed : Prop :=
  ∀ (s : State) (st : StationId) (start : Nat),
    s.resetting = none → (s.stations.get st).state = .arming → (s.stations.get st).settle = some start →
    start + (s.settings.stations.get st).settleTime * 1000 ≤ s.clock →
    exec (.settleExpiry st) s = .next
      { s with
        stations :=
          s.stations.set st
            { s.stations.get st with
              state := .armed
              settle := none
              channels :=
                (s.stations.get st).channels.map fun c => { c with confirm := none, stuck := 0, lastOn := none } }
        msg := s.reported (.stationNotice st .arming .armed .settle 0) }

/-! ### Plant inputs -/

/-- PLANT_INPUT_LEVEL_CHANGE: the level follows the current (HALT and AIR-LOW asserted without it, KEY with it); a
change starts the 1,000 µs where the level then differs from the taken state; nothing else changes. -/
def Obligations.LevelChangeStartsTheFilter : Prop :=
  ∀ (s : State) (current : Bool) (after : Bool → PlantFilter → PlantFilter),
    (∀ level f, after level f =
      if level = f.level then f
      else { f with level := level, since := if s.resetting = none ∧ level ≠ f.taken then some s.clock else none }) →
    exec (.plantInputLevelChange .halt current) s = .next
      { s with line := { s.line with halt := after (!current) s.line.halt }, msg := s.settledMsg } ∧
    exec (.plantInputLevelChange .airLow current) s = .next
      { s with line := { s.line with airLow := after (!current) s.line.airLow }, msg := s.settledMsg } ∧
    exec (.plantInputLevelChange .key current) s = .next
      { s with line := { s.line with key := after current s.line.key }, msg := s.settledMsg }

/-- HALT_ASSERTION in STANDBY, RUN or DRAINING: the line enters HALT with table and lists empty and every station
DISARMED; every entry that names a station that was ARMED is held; the settings are otherwise kept; the slots that end
are counted, RESULTs, DONE and station NOTICEs are queued, and then the line NOTICE. That from DRAINING no DRAIN_DONE
NOTICE is queued within HALT is the model's reading (log 19), and so are the hold count 0 in the NOTICE of a station that
was not ARMED and the fault cause NONE in the line NOTICE (log 20). -/
def Obligations.HaltStopsTheLine : Prop :=
  ∀ (s : State) (start : Nat),
    s.toBlock.Shaped → s.resetting = none → s.line.halt = ⟨true, false, some start⟩ → start + 1000 ≤ s.clock →
    (s.line.state = .standby ∨ s.line.state = .run ∨ s.line.state = .draining) →
    ∃ t, exec .haltAssertion s = .next t ∧
      t.line = { s.line with state := .halt, halt := ⟨true, true, none⟩ } ∧ LineStopped s.toBlock t ∧
      t.msg = startSending s.clock
        (offerAll (s.toBlock.stopReports .halt ++ [.lineNotice s.line.state .halt .halt .none]) s.msg) ∧
      t.pos = s.pos ∧ t.intake = s.intake ∧ t.ranks = s.ranks ∧ t.chain = s.chain ∧ t.store = s.store

/-- HALT_ASSERTION in STARTUP, HALT and FAULT, HALT_RELEASE, AIR_LOW_CHANGE and KEY_CHANGE: the taken state changes, an
assertion during the census of CLEAR FAULT is kept for that census's end (R144), and the release takes HALT to STANDBY
with its NOTICE (its fault cause NONE is log 20); nothing else changes. -/
def Obligations.TakenInputsChangeTheirState : Prop :=
  ∀ (s : State) (start : Nat) (level : Bool), s.resetting = none → start + 1000 ≤ s.clock →
    (s.line.halt = ⟨true, false, some start⟩ →
      (s.line.state = .startup ∨ s.line.state = .halt ∨ s.line.state = .fault) →
      exec .haltAssertion s = .next
        { s with
          line :=
            { s.line with
              halt := ⟨true, true, none⟩
              haltInCensus :=
                if s.line.state = .fault ∧ s.chain.census = true then true else s.line.haltInCensus }
          msg := s.settledMsg }) ∧
    (s.line.halt = ⟨false, true, some start⟩ →
      (s.line.state = .halt →
        exec .haltRelease s = .next
          { s with
            line := { s.line with state := .standby, halt := ⟨false, false, none⟩ }
            msg := s.reported (.lineNotice .halt .standby .haltRelease .none) }) ∧
      (s.line.state ≠ .halt →
        exec .haltRelease s = .next
          { s with line := { s.line with halt := ⟨false, false, none⟩ }, msg := s.settledMsg })) ∧
    (s.line.airLow = ⟨level, !level, some start⟩ →
      exec .airLowChange s = .next
        { s with line := { s.line with airLow := ⟨level, level, none⟩ }, msg := s.settledMsg }) ∧
    (s.line.key = ⟨level, !level, some start⟩ →
      exec .keyChange s = .next
        { s with line := { s.line with key := ⟨level, level, none⟩ }, msg := s.settledMsg })

/-! ### Control link -/

/-- CONTROL_BYTE: in SEEKING the sync byte begins a frame and all else is ignored; in IN_FRAME, within the gap time, a good
length byte, the kind, every payload byte and the first check byte are collected, whatever their value, and nothing else
changes; the last check byte of a good frame puts it in the buffer while that holds fewer than 4, and else discards it. -/
def Obligations.GoodControlFrameJoinsTheBuffer : Prop :=
  ∀ (s : State), s.resetting = none →
    (∀ (v : Byte) (stop : Bool), s.msg.receiver = .seeking →
      exec (.controlByte v stop) s = .next
        { s with
          msg :=
            startSending s.clock
              (if stop = true ∧ v = 0xC5#8 then { s.msg with receiver := .inFrame [] s.clock } else s.msg) }) ∧
    (∀ (v len : Byte) (bytes rest : List Byte) (last : Nat), s.msg.receiver = .inFrame bytes last →
      s.clock ≤ last + 2000 → bytes ++ [v] = len :: rest → len.toNat ≤ 250 → rest.length ≤ len.toNat + 2 →
      exec (.controlByte v true) s = .next
        { s with msg := startSending s.clock { s.msg with receiver := .inFrame (bytes ++ [v]) s.clock } }) ∧
    (∀ (len kind low high : Byte) (p : List Byte) (last : Nat),
      s.msg.receiver = .inFrame (len :: kind :: p ++ [low]) last → s.clock ≤ last + 2000 →
      p.length = len.toNat → len.toNat ≤ 250 → crcBytes (len :: kind :: p) = [low, high] →
      exec (.controlByte high true) s = .next
        { s with
          msg :=
            startSending s.clock
              (if s.msg.buffer.length < 4 then
                { s.msg with
                  receiver := .seeking
                  buffer := s.msg.buffer ++ [⟨kind, p⟩]
                  tallies := { s.msg.tallies with frames := bump s.msg.tallies.frames } }
              else
                { s.msg with
                  receiver := .seeking
                  tallies := { s.msg.tallies with bufferFull := bump s.msg.tallies.bufferFull } }) })

/-- CONTROL_BYTE and CONTROL_GAP_TIMEOUT: the four discards of R151, each with its tally; the receiver is SEEKING and
the rest of the message unit is not touched. That a byte in error is counted as that alone, also where its place would
make it a bad length or a bad check byte, is the model's choice (log 40). -/
def Obligations.BadControlFrameIsDiscarded : Prop :=
  ∀ (s : State) (bytes : List Byte) (last : Nat) (out : LinkTallies → MessageUnit),
    s.resetting = none → s.msg.receiver = .inFrame bytes last →
    (∀ t, out t = startSending s.clock { s.msg with receiver := .seeking, tallies := t }) →
    (last + 2000 < s.clock →
      exec .controlGapTimeout s = .next
        { s with msg := out { s.msg.tallies with gapError := bump s.msg.tallies.gapError } }) ∧
    (s.clock ≤ last + 2000 →
      (∀ v : Byte,
        exec (.controlByte v false) s = .next
          { s with msg := out { s.msg.tallies with byteError := bump s.msg.tallies.byteError } }) ∧
      (∀ v : Byte, bytes = [] → 250 < v.toNat →
        exec (.controlByte v true) s = .next
          { s with msg := out { s.msg.tallies with lengthError := bump s.msg.tallies.lengthError } }) ∧
      (∀ (len kind low v : Byte) (p : List Byte), bytes = len :: kind :: p ++ [low] → p.length = len.toNat →
        len.toNat ≤ 250 → crcBytes (len :: kind :: p) ≠ [low, v] →
        exec (.controlByte v true) s = .next
          { s with msg := out { s.msg.tallies with checkError := bump s.msg.tallies.checkError } }))

/-- TRANSMIT_COMPLETE: a report's end frees the transmitter, a reply's end also its request, and the end of the reply
to an accepted RESTART begins a reset of cause RESTART_REQUEST (whose time base stands, log 5, and whose working
settings are the factory defaults from its start, log 30). The report queue (R163 to R165): a report is numbered, joins
while fewer than 32 stand, and else is dropped where it is a RESULT, displaces the oldest RESULT where it is not, and is
dropped where there is none. The send order (R156): a reply stands behind the reports that wait when it is fixed, and a
free transmitter takes the reply where none is left before it and otherwise the report at the head; that an event ends
with this is log 15. A report's frame has its kind and a payload of its number and its items, each at its offset with its
code (chapter 11 sections 3 and 5); what a field carries for a value too wide for it is log 12. -/
def Obligations.TransmissionEndsAfterItsLastByte : Prop :=
  (∀ (s : State) (x : Sending),
    s.resetting = none → s.msg.sending = some x → x.start + 10 * x.bytes.length ≤ s.clock →
    (x.role = .report →
      exec .transmitComplete s = .next { s with msg := startSending s.clock { s.msg with sending := none } }) ∧
    (x.role = .reply false →
      exec .transmitComplete s = .next
        { s with msg := startSending s.clock { s.msg with sending := none, inHand := none } }) ∧
    (x.role = .reply true →
      ∃ t, exec .transmitComplete s = .next t ∧
        ResetBegun s t ⟨.restartRequest, some s.line.state, some false⟩ s.store.lockCopy
          ⟨s.clock, false, false, true, none⟩ ∧
        t.resetLine = s.resetLine)) ∧
  (∀ (m numbered : MessageUnit) (body : ReportBody), numbered = { m with nextReport := (m.nextReport + 1) % 65536 } →
    (m.reports.length < 32 →
      offerReport body m = { numbered with reports := m.reports ++ [⟨m.nextReport, body⟩] }) ∧
    (32 ≤ m.reports.length →
      (body.isResult = true →
        offerReport body m =
          { numbered with tallies := { m.tallies with resultDropped := bump m.tallies.resultDropped } }) ∧
      (body.isResult = false →
        ((∀ q ∈ m.reports, q.body.isResult = false) →
          offerReport body m =
            { numbered with tallies := { m.tallies with reportDropped := bump m.tallies.reportDropped } }) ∧
        ∀ (before after : List Report) (q : Report), m.reports = before ++ q :: after → q.body.isResult = true →
          (∀ e ∈ before, e.body.isResult = false) →
          offerReport body m =
            { numbered with
              reports := before ++ after ++ [⟨m.nextReport, body⟩]
              reply :=
                m.reply.map fun w => if before.length < w.ahead then { w with ahead := w.ahead - 1 } else w
              tallies := { m.tallies with resultDisplaced := bump m.tallies.resultDisplaced } }))) ∧
  (∀ body : ReportBody, body.isResult = true ↔ ∃ tag cls slots, body = .result tag cls slots) ∧
  (∀ (number : Nat) (body : ReportBody),
    ∃ (kind : Byte) (p : List Byte),
      reportFrame ⟨number, body⟩ = controlFrame kind p ∧ Carries p [(0, 2, number)] ∧
      match body with
      | .start cause lost boards census part =>
        kind = 0xE0#8 ∧ p.length = 7 ∧
          Carries p
            [(2, 1, cause.code), (3, 1, flagCode lost), (4, 1, boards), (5, 1, flagCode census), (6, 1, part.code)]
      | .result tag cls slots =>
        kind = 0xE1#8 ∧ p.length = 13 ∧ Carries p [(2, 2, tag), (4, 1, cls)] ∧
          ∀ st : StationId,
            (slots.get st = none → Carries p [(5 + 2 * st.val, 1, 255), (6 + 2 * st.val, 1, 0)]) ∧
            ∀ outcome flags, slots.get st = some (outcome, flags) →
              Carries p
                [(5 + 2 * st.val, 1, outcome.code),
                  (6 + 2 * st.val, 1, flagCode flags.late + 2 * flagCode flags.truncated + 4 * flagCode flags.merged +
                    8 * flagCode flags.cut + 16 * flagCode flags.degraded)]
      | .lineNotice left entered cause fault =>
        kind = 0xE2#8 ∧ p.length = 8 ∧
          Carries p
            [(2, 1, 0), (3, 1, left.code), (4, 1, entered.code), (5, 1, cause.code), (6, 1, fault.code), (7, 1, 0)]
      | .stationNotice st left entered cause holds =>
        kind = 0xE2#8 ∧ p.length = 8 ∧
          Carries p
            [(2, 1, 1), (3, 1, st.val), (4, 1, left.code), (5, 1, entered.code), (6, 1, cause.code), (7, 1, holds)]
      | .channelNotice st channel cause =>
        kind = 0xE2#8 ∧ p.length = 8 ∧
          Carries p [(2, 1, 2), (3, 1, st.val), (4, 1, channel), (5, 1, cause.code), (6, 2, 0)]
      | .done work ending station count latency =>
        kind = 0xE3#8 ∧ p.length = 9 ∧
          Carries p
            [(2, 1, work.code), (3, 1, ending.code), (4, 1, (station.map Fin.val).getD 255), (5, 1, count.getD 255),
              (6, 3, latency)]) ∧
  ([LineCause.start, .lineRun, .drain, .drainDone, .flush, .halt, .haltRelease, .overspeed, .reverse, .chain,
      .clearFault].map LineCause.code = List.range 11 ∧
    [StationCause.arm, .settle, .disarm, .stationFault, .halt, .fault, .clearChannel].map StationCause.code =
      List.range 7 ∧
    [ChannelFault.noConfirm, .stuck].map ChannelFault.code = [1, 2] ∧
    [Work.save, .restore, .purge, .calibrate].map Work.code = List.range 4 ∧
    [DoneResult.ok, .writeFail, .checkFail, .abandoned, .aborted, .failed, .outOfRange].map DoneResult.code =
      List.range 7) ∧
  (∀ (m : MessageUnit) (kind : Byte) (status : Status) (items : List Byte),
    placeReply kind ⟨status, items⟩ m =
      { m with
        reply :=
          some ⟨replyFrame kind ⟨status, items⟩, m.reports.length, decide (kind = 0x81#8 ∧ status = .ok)⟩ }) ∧
  ∀ (m : MessageUnit) (now : Nat),
    (m.sending ≠ none → startSending now m = m) ∧
    (m.sending = none →
      (m.reports = [] → m.reply = none → startSending now m = m) ∧
      (∀ w, m.reply = some w → (w.ahead = 0 ∨ m.reports = []) →
        startSending now m =
          { m with
            reply := none
            sending := some ⟨.reply w.restart, w.bytes, now⟩
            tallies := { m.tallies with replies := bump m.tallies.replies } }) ∧
      ∀ q rest, m.reports = q :: rest → (∀ w, m.reply = some w → 0 < w.ahead) →
        startSending now m =
          { m with
            reports := rest
            reply := m.reply.map fun w => { w with ahead := w.ahead - 1 }
            sending := some ⟨.report, reportFrame q, now⟩
            tallies := { m.tallies with reports := bump m.tallies.reports } })

/-- IDENTIFY, STATUS, TRACK_QUERY, LIST_READ and a kind that names no request: each is answered with what it reads and
changes nothing, but that UNKNOWN_KIND is counted; the first two and UNKNOWN_KIND are so in every line state. What they
carry is laid out by offset, size and value as chapter 11 sections 3 and 6 give it, with the codes of section 5; the check
value is that of R181. The hardware revision is a free value (log 13), and so is what a field carries for a value too wide
for it (log 12); the confirmed flag of an entry that has none is log 36. -/
def Obligations.ReadingRequestsChangeNothing : Prop :=
  (∀ (s : State) (p : List Byte) (rest : List Frame),
    (∀ kind : Byte, Serving s kind p rest →
      kind.toNat ∉
        [0x01, 0x02, 0x10, 0x11, 0x20, 0x21, 0x22, 0x23, 0x24, 0x30, 0x31, 0x32, 0x33, 0x34, 0x35, 0x40, 0x41, 0x42,
          0x43, 0x50, 0x60, 0x61, 0x62, 0x70, 0x71, 0x80, 0x81] →
      exec .unknownKind s = .next
        { s with
          msg :=
            ({ s.msg.serving kind rest with
                tallies := { s.msg.tallies with unknown := bump s.msg.tallies.unknown } }).replying
              s.clock kind .unknownKind [] }) ∧
    (Serving s 0x01#8 p rest →
      exec .identify s = .next
        { s with
          msg := if p = [] then s.answered 0x01#8 rest .ok identifyItems else s.answered 0x01#8 rest .badArg [] }) ∧
    (Serving s 0x02#8 p rest →
      exec .status s = .next
        { s with
          msg :=
            if p = [] then
              s.answered 0x02#8 rest .ok (statusItems { s.toBlock with msg := s.msg.serving 0x02#8 rest })
            else s.answered 0x02#8 rest .badArg [] }) ∧
    (Serving s 0x42#8 p rest → s.line.state ≠ .startup → p.length = 2 →
      (findRecord (field p 0 2) s.track.table = none →
        exec .trackQuery s = .next { s with msg := s.answered 0x42#8 rest .notFound [] }) ∧
      (∀ r, findRecord (field p 0 2) s.track.table = some r →
        exec .trackQuery s = .next { s with msg := s.answered 0x42#8 rest .ok (recordBytes r) })) ∧
    (Serving s 0x43#8 p rest → s.line.state ≠ .startup → p.length = 3 →
      (∀ st : StationId, field p 0 1 = st.val → field p 1 2 ≤ 767 →
        exec .listRead s = .next
          { s with
            msg :=
              s.answered 0x43#8 rest .ok
                (le 2 (s.lists.get st).length ++ le 2 (field p 1 2) ++
                  (((s.lists.get st).drop (field p 1 2)).take 8).flatMap (entryBytes s.clock)) }) ∧
      ((4 ≤ field p 0 1 ∨ 767 < field p 1 2) →
        exec .listRead s = .next { s with msg := s.answered 0x43#8 rest .badArg [] }))) ∧
  (∀ (bytes : List Byte) (start size : Nat),
    field bytes start 0 = 0 ∧
      field bytes start (size + 1) = (bytes.getD start 0#8).toNat + 256 * field bytes (start + 1) size) ∧
  (∀ size n : Nat, n < 256 ^ size → (le size n).length = size ∧ field (le size n) 0 size = n) ∧
  (∀ n : Nat, byte n = le 1 n) ∧
  (∃ revision : Nat, 1 ≤ revision ∧ revision ≤ 255 ∧
    identifyItems =
      [0x4A#8, 0x54#8, 0x2D#8, 0x34#8, 0x36#8, 0x30#8, BitVec.ofNat 8 revision, 4#8, 32#8, 250#8]) ∧
  (∀ (b : Block) (items : List Byte), items = statusItems b →
    items.length = 93 ∧ CarriesSigned items 0 8 b.pos.n ∧
    Carries items
      [(8, 6, b.pos.x), (14, 6, b.pos.slice), (20, 6, (b.pos.x - b.pos.n).toNat), (26, 2, b.pos.v),
        (28, 1, b.intake.queue.length), (29, 2, b.track.table.length), (43, 1, b.settings.partition.code),
        (48, 1, b.chain.boards), (81, 1, b.line.state.code), (82, 1, b.line.fault.code),
        (83, 1, b.line.record.cause.code), (84, 1, (b.line.record.lineBefore.map LineState.code).getD 255),
        (85, 1, (b.line.record.saveInFlight.map flagCode).getD 255),
        (86, 1, flagCode b.pos.reverseFlag + 2 * flagCode b.pos.overspeed + 4 * flagCode b.intake.ready +
          8 * flagCode b.chain.chainError + 16 * flagCode b.chain.censusOk + 32 * flagCode b.line.settingsLost +
          64 * flagCode b.line.halt.taken + 128 * flagCode b.line.airLow.taken),
        (87, 1, flagCode b.line.key.taken + 2 * b.store.lock.code + 8 * b.store.activity.code + 32 * b.maint.code),
        (88, 1, b.msg.buffer.length), (89, 1, b.msg.reports.length), (90, 1, b.msg.pointer.table.code),
        (91, 1, b.msg.pointer.index), (92, 1, b.msg.pointer.step.code)] ∧
    (∀ st : StationId,
      Carries items
        [(31 + 2 * st.val, 2, (b.lists.get st).length), (39 + st.val, 1, b.ranks.get st),
          (44 + st.val, 1, (b.stations.get st).state.code)]) ∧
    ∀ o, o < 128 →
      field items (49 + o / 8) 1 / 2 ^ (o % 8) % 2 = flagCode (b.chain.outputs.getD o false) ∧
        field items (65 + o / 8) 1 / 2 ^ (o % 8) % 2 = flagCode (b.chain.feedback.getD o false)) ∧
  (∀ (r : ParticleRecord) (items : List Byte), items = recordBytes r →
    items.length = 121 ∧
    Carries items
      [(0, 2, r.tag), (2, 1, r.cls), (3, 6, r.position), (9, 2, r.length), (11, 1, r.firstLane), (12, 1, r.lastLane),
        (13, 1, r.confidence), (14, 1, r.action.code + 2 * r.delivery.code + 8 * flagCode r.report),
        (15, 1, r.priority), (16, 1, r.pattern)] ∧
    ∀ (st : StationId) (o : Nat), o = 17 + 26 * st.val →
      (r.slots.get st = none →
        Carries items [(o, 1, 255), (o + 1, 1, 0), (o + 2, 6, 0), (o + 8, 16, 0), (o + 24, 1, 255), (o + 25, 1, 0)]) ∧
      ∀ sl, r.slots.get st = some sl →
        CarriesSigned items (o + 2) 6 sl.commitSlice ∧
        Carries items
          [(o, 1, sl.state.code),
            (o + 24, 1,
              match sl.state with
              | .final outcome => outcome.code
              | .waiting | .committed | .active => 255),
            (o + 25, 1, flagCode sl.flags.late + 2 * flagCode sl.flags.truncated + 4 * flagCode sl.flags.merged +
              8 * flagCode sl.flags.cut + 16 * flagCode sl.flags.degraded)] ∧
        (sl.figures = none → Carries items [(o + 1, 1, 0), (o + 8, 16, 0)]) ∧
        ∀ g, sl.figures = some g →
          Carries items
            [(o + 1, 1, 1), (o + 8, 6, g.onSlice), (o + 14, 6, g.offSlice), (o + 20, 1, g.firstChannel),
              (o + 21, 1, g.lastChannel), (o + 22, 1, g.entries), (o + 23, 1, g.completions)]) ∧
  (∀ (now : Nat) (e : Entry) (items : List Byte), items = entryBytes now e → e.tags.length ≤ 4 →
    items.length = 28 ∧
    Carries items
      [(0, 1, e.channel), (1, 6, e.onSlice), (7, 6, e.offSlice),
        (13, 1, e.kind.code +
          (match e.state with
          | .committed => 0
          | .active _ confirmed => 2 + if confirmed = true ∧ e.kind = .eject then 4 else 0)),
        (14, 1, e.priority), (15, 1, e.tags.length), (16, 2, e.tags.getD 0 0), (18, 2, e.tags.getD 1 0),
        (20, 2, e.tags.getD 2 0), (22, 2, e.tags.getD 3 0),
        (24, 4,
          match e.state with
          | .committed => 0
          | .active start _ => min (now - start) 4294967295)]) ∧
  (flagCode false = 0 ∧ flagCode true = 1 ∧
    [Status.ok, .held, .tooLate, .busy, .locked, .wrongState, .badArg, .notFound, .noBoard, .notReady,
      .unknownKind].map Status.code = List.range 11 ∧
    [LineState.startup, .standby, .run, .draining, .halt, .fault].map LineState.code = List.range 6 ∧
    [FaultCause.none, .overspeed, .reverse, .chain].map FaultCause.code = List.range 4 ∧
    [StationKind.none, .nozzle, .coil, .flap].map StationKind.code = List.range 4 ∧
    [StationState.disarmed, .arming, .armed, .faulted].map StationState.code = List.range 4 ∧
    [SlotOutcome.ejected, .shielded, .missed, .refused, .displaced, .floored, .airLimit, .listFull, .masked, .notChosen,
      .cancelled, .channelFault, .aborted].map SlotOutcome.code = List.range 13 ∧
    [Delivery.fixed, .leastLoaded, .all].map Delivery.code = List.range 3 ∧
    [Action.eject, .shield].map Action.code = List.range 2 ∧
    [LockMode.opened, .keyed, .sealed].map LockMode.code = List.range 3 ∧
    [ResetCause.powerOn, .supplyDip, .resetLine, .restartRequest].map ResetCause.code = List.range 4 ∧
    [Partition.p0, .p1, .p2, .p3].map Partition.code = List.range 4 ∧
    [TableName.route, .pattern].map TableName.code = List.range 2 ∧
    [PointerStep.hold, .up, .down].map PointerStep.code = List.range 3 ∧
    [SlotState.waiting, .committed, .active].map SlotState.code = List.range 3 ∧
    (∀ o, (SlotState.final o).code = 3) ∧
    (StoreActivity.idle.code = 0 ∧ (∀ copy, (StoreActivity.saving copy).code = 1) ∧ StoreActivity.restoring.code = 2) ∧
    (Sequencer.idle.code = 0 ∧ (∀ p, (Sequencer.purging p).code = 1) ∧ (∀ p, (Sequencer.suspended p).code = 2) ∧
      ∀ c, (Sequencer.calibrating c).code = 3)) ∧
  (∀ (kind : Byte) (payload : List Byte),
    controlFrame kind payload =
      0xC5#8 :: BitVec.ofNat 8 payload.length :: kind :: payload ++
        crcBytes (BitVec.ofNat 8 payload.length :: kind :: payload)) ∧
  (∀ (kind : Byte) (status : Status) (items : List Byte),
    replyFrame kind ⟨status, items⟩ = controlFrame kind (BitVec.ofNat 8 status.code :: items)) ∧
  ∀ (shift : BitVec 16 → BitVec 16) (covered : List Byte) (check : BitVec 16),
    (∀ c, shift c = if c.msb = true then (c <<< 1) ^^^ 0x1021#16 else c <<< 1) →
    check = covered.foldl (fun (c : BitVec 16) (v : Byte) => shift^[8] (c ^^^ ((v.setWidth 16) <<< 8))) 0xFFFF#16 →
    crcBytes covered = [check.setWidth 8, (check >>> 8).setWidth 8]

/-- TALLY_READ: the group's items as they stand, and with the clear flag the group's tallies set to 0 after their
values are in the reply; channel states, station state and floors are not touched; a flag byte of 2 or more and a group
past the last are refused. The items are laid out as chapter 11 section 3 gives them. -/
def Obligations.TallyReadCarriesAndClears : Prop :=
  (∀ (s : State) (group clear : Byte) (rest : List Frame),
    Serving s 0x50#8 [group, clear] rest → s.line.state ≠ .startup → 2 ≤ clear.toNat →
    exec .tallyRead s = .next { s with msg := s.answered 0x50#8 rest .badArg [] }) ∧
  (∀ (s : State) (group clear : Byte) (rest : List Frame),
    Serving s 0x50#8 [group, clear] rest → s.line.state ≠ .startup → (clear = 0#8 ∨ clear = 1#8) →
    (group = 0#8 →
      exec .tallyRead s = .next
        { s with
          intake := if clear = 1#8 then { s.intake with tallies := ⟨0, 0, 0, 0, 0, 0, 0, 0, 0, 0, 0, 0⟩ } else s.intake
          msg := s.answered 0x50#8 rest .ok (byte 0 ++ tallyBytes s.intake.tallies.toList) }) ∧
    (group = 1#8 →
      exec .tallyRead s = .next
        { s with
          msg :=
            ({ s.msg.serving 0x50#8 rest with
                tallies := if clear = 1#8 then ⟨0, 0, 0, 0, 0, 0, 0, 0, 0, 0, 0, 0⟩ else s.msg.tallies }).replying
              s.clock 0x50#8 .ok (byte 1 ++ tallyBytes s.msg.tallies.toList) }) ∧
    (∀ st : StationId, group.toNat = st.val + 2 →
      exec .tallyRead s = .next
        { s with
          track :=
            if clear = 1#8 then
              { s.track with outcomes := s.track.outcomes.set st (List.replicate 13 0) }
            else s.track
          stations :=
            if clear = 1#8 then
              s.stations.set st { s.stations.get st with noConfirm := 0, stuck := 0, cut := 0 }
            else s.stations
          msg := s.answered 0x50#8 rest .ok (byte (st.val + 2) ++ stationItems s.toBlock st) }) ∧
    (6 ≤ group.toNat → exec .tallyRead s = .next { s with msg := s.answered 0x50#8 rest .badArg [] })) ∧
  (∀ t : IntakeTallies,
    (tallyBytes t.toList).length = 48 ∧
    Carries (tallyBytes t.toList)
      [(0, 4, t.received), (4, 4, t.queueFull), (8, 4, t.badFrame), (12, 4, t.notRunning), (16, 4, t.invalid),
        (20, 4, t.stale), (24, 4, t.held), (28, 4, t.passed), (32, 4, t.unsure), (36, 4, t.duplicate),
        (40, 4, t.tableFull), (44, 4, t.admitted)]) ∧
  (∀ t : LinkTallies,
    (tallyBytes t.toList).length = 48 ∧
    Carries (tallyBytes t.toList)
      [(0, 4, t.frames), (4, 4, t.bufferFull), (8, 4, t.lengthError), (12, 4, t.byteError), (16, 4, t.gapError),
        (20, 4, t.checkError), (24, 4, t.unknown), (28, 4, t.replies), (32, 4, t.reports), (36, 4, t.resultDropped),
        (40, 4, t.resultDisplaced), (44, 4, t.reportDropped)]) ∧
  ∀ (b : Block) (st : StationId) (x : Station) (c : StationSettings) (outcomes : List Nat) (items : List Byte),
    x = b.stations.get st → c = b.settings.stations.get st → outcomes = b.track.outcomes.get st →
    outcomes.length = 13 → items = stationItems b st →
    items.length = 70 + c.channels ∧
    (∀ i v, outcomes[i]? = some v → Carries items [(4 * i, 4, v)]) ∧
    Carries items
      [(52, 1, (b.settings.floors.get st).floor), (53, 1, (b.settings.floors.get st).lowAir), (54, 1, c.kind.code),
        (55, 1, x.state.code), (56, 1, if x.enable = true then 1 else 0), (57, 4, x.noConfirm), (61, 4, x.stuck),
        (65, 4, x.cut), (69, 1, c.channels)] ∧
    ∀ (ch : Nat) (z : Channel), ch < c.channels → x.channels[ch]? = some z →
      field items (70 + ch) 1 =
        (match z.fault with
        | none => 0
        | some .noConfirm => 1
        | some .stuck => 2)

/-! ### Checks before a request's own -/

/-- In STARTUP every request but IDENTIFY and STATUS is answered NOT_READY and changes nothing (R135, R154). -/
def Obligations.StartupRefusesRequests : Prop :=
  ∀ (s : State) (c : Instr) (kind : Byte) (p : List Byte) (rest : List Frame),
    Serving s kind p rest → s.line.state = .startup → serves c ⟨kind, p⟩ = true →
    c ≠ .unknownKind → c ≠ .identify → c ≠ .status →
    exec c s = .next { s with msg := s.answered kind rest .notReady [] }

/-- Checks 3 and 4 of R154, past STARTUP. A payload length that the kind does not allow is answered BAD_ARG whatever the lock
and the settings store's work, and changes nothing; so are a LINE frame that names no order and a PURGE frame whose length
does not agree with its order or that names none (R177; that each row of a shared kind serves such a frame is log 25). An
edit with a good length is answered LOCKED in SEALED and, while KEY is released, in KEYED; where the lock passes it is
answered BUSY while the settings store works; either way nothing changes (R175). -/
def Obligations.LockAndWorkBarEdits : Prop :=
  (∀ (s : State) (c : Instr) (kind : Byte) (p : List Byte) (rest : List Frame),
    Serving s kind p rest → s.line.state ≠ .startup → serves c ⟨kind, p⟩ = true →
    ((∃ n, p.length ≠ n ∧
        (c, kind, n) ∈
          [(Instr.lineRun, 0x10#8, 1), (.lineStandbyDrain, 0x10#8, 1), (.lineStandbyFlush, 0x10#8, 1),
            (.lineSet, 0x11#8, 7), (.stationSet, 0x20#8, 23), (.arm, 0x21#8, 1), (.disarm, 0x22#8, 1), (.floor, 0x23#8, 3),
            (.clearChannel, 0x24#8, 2), (.select, 0x30#8, 3), (.read, 0x32#8, 1), (.releaseHolds, 0x33#8, 0),
            (.rankReset, 0x34#8, 0), (.partition, 0x35#8, 1), (.cancel, 0x40#8, 2), (.amend, 0x41#8, 3),
            (.trackQuery, 0x42#8, 2), (.listRead, 0x43#8, 3), (.tallyRead, 0x50#8, 2), (.save, 0x60#8, 0),
            (.restore, 0x61#8, 0), (.lockOpen, 0x62#8, 1), (.lockKeyed, 0x62#8, 1), (.lockSealed, 0x62#8, 1),
            (.calibrate, 0x71#8, 2), (.clearFault, 0x80#8, 0), (.restart, 0x81#8, 0)]) ∨
      (c = .write ∧ ∀ n, 1 ≤ n → n ≤ 8 →
        p.length ≠ n * (match s.msg.pointer.table with | .route => 4 | .pattern => 6)) ∨
      (c ∈ [Instr.lineRun, .lineStandbyDrain, .lineStandbyFlush] ∧ 3 ≤ field p 0 1) ∨
      (c ∈ [Instr.purgeStart, .purgeSuspend, .purgeResume, .purgeAbort] ∧ ¬(p.length = 7 ∧ field p 0 1 = 0) ∧
        ¬(p.length = 1 ∧ field p 0 1 ∈ [1, 2, 3]))) →
    exec c s = .next { s with msg := s.answered kind rest .badArg [] }) ∧
  ∀ (s : State) (c : Instr) (kind : Byte) (n : Nat) (p : List Byte) (rest : List Frame),
    (c, kind, n) ∈
      [(Instr.lineSet, 0x11#8, 7), (.stationSet, 0x20#8, 23), (.write, 0x31#8, n), (.releaseHolds, 0x33#8, 0),
        (.partition, 0x35#8, 1), (.save, 0x60#8, 0), (.restore, 0x61#8, 0), (.lockOpen, 0x62#8, 1),
        (.lockKeyed, 0x62#8, 1)] →
    Serving s kind p rest → s.line.state ≠ .startup → p.length = n →
    (c = .write →
      ∃ k, 1 ≤ k ∧ k ≤ 8 ∧ n = k * (match s.msg.pointer.table with | .route => 4 | .pattern => 6)) →
    (c = .lockOpen → p = [0#8]) → (c = .lockKeyed → p = [1#8]) →
    ((s.store.lock = .sealed ∨ (s.store.lock = .keyed ∧ s.line.key.taken = false)) →
      exec c s = .next { s with msg := s.answered kind rest .locked [] }) ∧
    ((s.store.lock = .opened ∨ (s.store.lock = .keyed ∧ s.line.key.taken = true)) → s.store.activity ≠ .idle →
      exec c s = .next { s with msg := s.answered kind rest .busy [] })

/-! ### Requests to the line -/

/-- LINE_RUN (R136, R9): the line enters RUN from STANDBY, unless work is in progress, and from DRAINING; with backlash
above the reverse limit it faults at the entry, with the NOTICE of RUN first (the model's choice, log 41) and then
everything a stop of the line ends, counts and reports; in RUN nothing changes; in HALT and FAULT it is refused. The fault cause NONE in the NOTICE of RUN and
the hold count 0 in the NOTICE of a station that was not ARMED are log 20; that no DRAIN_DONE NOTICE is queued within the
fault is log 19. -/
def Obligations.LineRunEntersRun : Prop :=
  ∀ (s : State) (rest : List Frame), Serving s 0x10#8 [0#8] rest →
    (∀ entered : LineState, s.line.state = entered →
      ((entered = .standby ∧ s.maint = .idle ∧ s.store.activity = .idle) ∨ entered = .draining) →
      (s.pos.backlash ≤ s.settings.reverseLimit →
        exec .lineRun s = .next
          { s with
            line := { s.line with state := .run }
            msg := s.reportedAnd (.lineNotice entered .run .lineRun .none) 0x10#8 rest .ok [] }) ∧
      (s.toBlock.Shaped → s.settings.reverseLimit < s.pos.backlash →
        ∃ t, exec .lineRun s = .next t ∧ t.line = { s.line with state := .fault, fault := .reverse } ∧
          LineStopped s.toBlock t ∧
          t.msg =
            (offerAll
              ([.lineNotice entered .run .lineRun .none] ++ s.toBlock.stopReports .fault ++
                [.lineNotice .run .fault .reverse .reverse])
              (s.msg.serving 0x10#8 rest)).replying s.clock 0x10#8 .ok [] ∧
          t.pos = s.pos ∧ t.intake = s.intake ∧ t.ranks = s.ranks ∧ t.chain = s.chain ∧ t.store = s.store)) ∧
    (s.line.state = .run → exec .lineRun s = .next { s with msg := s.answered 0x10#8 rest .ok [] }) ∧
    (s.line.state = .standby → (s.maint ≠ .idle ∨ s.store.activity ≠ .idle) →
      exec .lineRun s = .next { s with msg := s.answered 0x10#8 rest .busy [] }) ∧
    ((s.line.state = .halt ∨ s.line.state = .fault) →
      exec .lineRun s = .next { s with msg := s.answered 0x10#8 rest .wrongState [] })

/-- LINE_STANDBY_DRAIN and LINE_STANDBY_FLUSH (R137, R138, R52): a drain leaves the table its course or, with the table
empty, goes to STANDBY at once; a flush makes every slot that is not FINAL ABORTED, retires every record with its
tallies and its RESULT before the line NOTICE, empties the lists and leaves the stations as they are; elsewhere both are
refused, but for a drain that is on already. The fault cause NONE in the line NOTICEs is log 20. -/
def Obligations.StandbyOrdersEndTheRun : Prop :=
  ∀ (s : State) (rest : List Frame),
    (Serving s 0x10#8 [1#8] rest →
      (∀ new : LineState, s.line.state = .run → new = (if s.track.table = [] then .standby else .draining) →
        exec .lineStandbyDrain s = .next
          { s with
            line := { s.line with state := new }
            msg := s.reportedAnd (.lineNotice .run new .drain .none) 0x10#8 rest .ok [] }) ∧
      (s.line.state = .draining →
        exec .lineStandbyDrain s = .next { s with msg := s.answered 0x10#8 rest .ok [] }) ∧
      ((s.line.state = .standby ∨ s.line.state = .halt ∨ s.line.state = .fault) →
        exec .lineStandbyDrain s = .next { s with msg := s.answered 0x10#8 rest .wrongState [] })) ∧
    (Serving s 0x10#8 [2#8] rest →
      (∀ (left : LineState) (aborted : List ParticleRecord), s.line.state = left → (left = .run ∨ left = .draining) →
        aborted =
          s.track.table.map (fun r =>
            { r with slots := r.slots.map fun o => o.map fun sl =>
                if sl.state.isFinal = true then sl else sl.ended .aborted }) →
        exec .lineStandbyFlush s = .next
          { s with
            line := { s.line with state := .standby }
            track := ⟨[], aborted.foldl countOutcomes s.track.outcomes⟩
            lists := ⟨[], [], [], []⟩
            msg :=
              (offerAll (resultsOf aborted ++ [.lineNotice left .standby .flush .none])
                (s.msg.serving 0x10#8 rest)).replying s.clock 0x10#8 .ok [] }) ∧
      ((s.line.state = .standby ∨ s.line.state = .halt ∨ s.line.state = .fault) →
        exec .lineStandbyFlush s = .next { s with msg := s.answered 0x10#8 rest .wrongState [] }))

/-- LINE_SET (R5, R6, R8): in STANDBY the three settings are written together, the scan slice is recomputed and the
reverse flag re-evaluated; outside STANDBY, and for a value out of range, nothing is written. -/
def Obligations.LineSetWritesThreeSettings : Prop :=
  ∀ (s : State) (p : List Byte) (rest : List Frame) (slice limit stale : Nat),
    Serving s 0x11#8 p rest → EditsOpen s → s.line.state ≠ .startup → p.length = 7 →
    slice = field p 0 2 → limit = field p 2 2 → stale = field p 4 3 →
    (s.line.state = .standby → 1 ≤ slice → slice ≤ 256 → 1 ≤ stale → stale ≤ 16777215 →
      exec .lineSet s = .next
        { s with
          settings := { s.settings with sliceLength := slice, reverseLimit := limit, staleLimit := stale }
          pos :=
            { s.pos with
              slice := s.pos.x / slice
              reverseFlag :=
                if limit < s.pos.backlash then true
                else if s.pos.backlash = 0 then false else s.pos.reverseFlag }
          msg := s.answered 0x11#8 rest .ok [] }) ∧
    (s.line.state ≠ .standby → exec .lineSet s = .next { s with msg := s.answered 0x11#8 rest .wrongState [] }) ∧
    (s.line.state = .standby → (slice = 0 ∨ 256 < slice ∨ stale = 0 ∨ 16777215 < stale) →
      exec .lineSet s = .next { s with msg := s.answered 0x11#8 rest .badArg [] })

/-! ### Requests to stations -/

/-- STATION_SET (R110, R111): at a DISARMED station a record whose fields lie in their ranges and whose chain range shares
no output with another station's replaces the twelve settings and returns every channel to OK; a bad station number, kind
or record, and a station in another state, are refused and nothing changes. The record is laid out as chapter 11 section 4
gives it. -/
def Obligations.StationSetReplacesTheRecord : Prop :=
  ∀ (s : State) (p : List Byte) (rest : List Frame),
    Serving s 0x20#8 p rest → EditsOpen s → s.line.state ≠ .startup → p.length = 23 →
    (4 ≤ field p 0 1 → exec .stationSet s = .next { s with msg := s.answered 0x20#8 rest .badArg [] }) ∧
    (∀ st : StationId, field p 0 1 = st.val →
      ((s.stations.get st).state ≠ .disarmed →
        exec .stationSet s = .next { s with msg := s.answered 0x20#8 rest .wrongState [] }) ∧
      ((s.stations.get st).state = .disarmed →
        (4 ≤ field p 1 1 → exec .stationSet s = .next { s with msg := s.answered 0x20#8 rest .badArg [] }) ∧
        (∀ (kind : StationKind) (most : Nat) (c : StationSettings),
          (field p 1 1, kind, most) ∈
            [(0, StationKind.none, 64), (1, .nozzle, 64), (2, .coil, 16), (3, .flap, 1)] →
          c =
            { kind := kind, firstOutput := field p 2 1, channels := field p 3 1, leadDistance := field p 4 3
              latency := field p 7 3, horizon := field p 10 1, maxOn := field p 11 2, maxOnTime := field p 13 3
              minGap := field p 16 1, concurrency := field p 17 1, confirmWindow := field p 18 3
              settleTime := field p 21 2 } →
          (GoodRecord most c →
            (∀ (other : StationId) (d : StationSettings), other ≠ st → d = s.settings.stations.get other →
              kind ≠ .none → d.kind ≠ .none →
              c.firstOutput + c.channels ≤ d.firstOutput ∨ d.firstOutput + d.channels ≤ c.firstOutput) →
            exec .stationSet s = .next
              { s with
                settings := { s.settings with stations := s.settings.stations.set st c }
                stations :=
                  s.stations.set st { s.stations.get st with channels := List.replicate 64 ⟨none, none, 0, none⟩ }
                msg := s.answered 0x20#8 rest .ok [] }) ∧
          ((¬GoodRecord most c ∨
              ∃ (other : StationId) (d : StationSettings), other ≠ st ∧ d = s.settings.stations.get other ∧
                kind ≠ .none ∧ d.kind ≠ .none ∧ c.firstOutput < d.firstOutput + d.channels ∧
                d.firstOutput < c.firstOutput + c.channels) →
            exec .stationSet s = .next { s with msg := s.answered 0x20#8 rest .badArg [] }))))

/-- ARM (R112, and R113 for a settle time of 0): the refusals in the order of R112; an accepted ARM asserts the enable
line and starts the settle timer, and with a settle time of 0 the station goes on to ARMED. The hold count 0 in both
NOTICEs is log 20. -/
def Obligations.ArmStartsTheSettleTime : Prop :=
  ∀ (s : State) (p : List Byte) (rest : List Frame), Serving s 0x21#8 p rest → p.length = 1 →
    (s.line.state = .startup → exec .arm s = .next { s with msg := s.answered 0x21#8 rest .notReady [] }) ∧
    (s.line.state ≠ .startup → 4 ≤ field p 0 1 →
      exec .arm s = .next { s with msg := s.answered 0x21#8 rest .badArg [] }) ∧
    (∀ (st : StationId) (c : StationSettings), s.line.state ≠ .startup → field p 0 1 = st.val →
      c = s.settings.stations.get st →
      ((s.line.state = .halt ∨ s.line.state = .fault) →
        exec .arm s = .next { s with msg := s.answered 0x21#8 rest .wrongState [] }) ∧
      (s.line.state ≠ .halt → s.line.state ≠ .fault →
        (((s.stations.get st).state = .arming ∨ (s.stations.get st).state = .armed) →
          exec .arm s = .next { s with msg := s.answered 0x21#8 rest .ok [] }) ∧
        (((s.stations.get st).state = .faulted ∨
            (s.stations.get st).state = .disarmed ∧ (c.kind = .none ∨ allFaulted s.toBlock st = true)) →
          exec .arm s = .next { s with msg := s.answered 0x21#8 rest .wrongState [] }) ∧
        ((s.stations.get st).state = .disarmed → c.kind ≠ .none → allFaulted s.toBlock st = false →
          (32 * s.chain.boards ≤ c.firstOutput + c.channels - 1 →
            exec .arm s = .next { s with msg := s.answered 0x21#8 rest .noBoard [] }) ∧
          (c.firstOutput + c.channels - 1 < 32 * s.chain.boards →
            (0 < c.settleTime →
              exec .arm s = .next
                { s with
                  stations :=
                    s.stations.set st
                      { s.stations.get st with state := .arming, enable := true, settle := some s.clock }
                  msg := s.reportedAnd (.stationNotice st .disarmed .arming .arm 0) 0x21#8 rest .ok [] }) ∧
            (c.settleTime = 0 →
              exec .arm s = .next
                { s with
                  stations :=
                    s.stations.set st
                      { s.stations.get st with
                        state := .armed
                        enable := true
                        settle := none
                        channels :=
                          (s.stations.get st).channels.map fun ch =>
                            { ch with confirm := none, stuck := 0, lastOn := none } }
                  msg :=
                    (offerReport (.stationNotice st .arming .armed .settle 0)
                      (offerReport (.stationNotice st .disarmed .arming .arm 0)
                        (s.msg.serving 0x21#8 rest))).replying s.clock 0x21#8 .ok [] })))))

/-- DISARM (R114, R115, R58): a station number outside 0 to 3 is refused. An ARMED station loses its entries, its COMMITTED
and ACTIVE slots, its enable line and its timers, and every entry naming it is held; the records it finishes are counted
and retire, a run of maintenance on it is abandoned, and RESULTs, DONE and the station NOTICE are queued, before the NOTICE of a drain that is done by it; an
ARMING or FAULTED station becomes DISARMED with no hold; a DISARMED station is left as it is. The hold count 0 of a
station that was not ARMED and the fault cause NONE of the drain's NOTICE are log 20; that an ended slot of a record that
stays shows entry count 0 is log 21. -/
def Obligations.DisarmTakesTheStationOut : Prop :=
  (∀ (s : State) (p : List Byte) (rest : List Frame),
    Serving s 0x22#8 p rest → s.line.state ≠ .startup → p.length = 1 → 4 ≤ field p 0 1 →
    exec .disarm s = .next { s with msg := s.answered 0x22#8 rest .badArg [] }) ∧
  ∀ (s : State) (p : List Byte) (rest : List Frame) (st : StationId),
    Serving s 0x22#8 p rest → s.line.state ≠ .startup → p.length = 1 → field p 0 1 = st.val →
    (∀ (table kept gone : List ParticleRecord) (drained : Bool), (s.stations.get st).state = .armed →
      table =
        s.track.table.map (fun r =>
          r.updateSlot st fun sl =>
            if sl.state = .committed then
              { sl with state := .final .masked, figures := sl.figures.map fun g => { g with entries := 0 } }
            else if sl.state = .active then
              { sl with state := .final .aborted, figures := sl.figures.map fun g => { g with entries := 0 } }
            else sl) →
      kept = table.filter (fun r => !r.finished) → gone = table.filter (fun r => r.finished) →
      drained = decide (s.line.state = .draining ∧ kept = []) →
      exec .disarm s = .next
        { s with
          lists := s.lists.set st []
          track := ⟨kept, gone.foldl countOutcomes s.track.outcomes⟩
          stations :=
            s.stations.set st
              { s.stations.get st with
                state := .disarmed
                enable := false
                settle := none
                channels :=
                  (s.stations.get st).channels.map fun c => { c with confirm := none, stuck := 0, lastOn := none } }
          settings :=
            { s.settings with
              routes :=
                s.settings.routes.map fun e => if e.stations.get st = true then { e with hold := true } else e }
          maint := s.toBlock.maintWithout st
          line := if drained = true then { s.line with state := .standby } else s.line
          msg :=
            (offerAll
              (resultsOf gone ++ s.toBlock.abandonedReports st ++
                [.stationNotice st .armed .disarmed .disarm (s.settings.routes.countP fun e => e.stations.get st)] ++
                (if drained = true then [.lineNotice .draining .standby .drainDone .none] else []))
              (s.msg.serving 0x22#8 rest)).replying s.clock 0x22#8 .ok [] }) ∧
    (∀ left : StationState, (s.stations.get st).state = left → (left = .arming ∨ left = .faulted) →
      (s.line.state = .draining → s.track.table ≠ []) →
      exec .disarm s = .next
        { s with
          stations :=
            s.stations.set st { s.stations.get st with state := .disarmed, enable := false, settle := none }
          msg := s.reportedAnd (.stationNotice st left .disarmed .disarm 0) 0x22#8 rest .ok [] }) ∧
    ((s.stations.get st).state = .disarmed → (s.line.state = .draining → s.track.table ≠ []) →
      exec .disarm s = .next { s with msg := s.answered 0x22#8 rest .ok [] })

/-- CLEAR_CHANNEL (R122): a FAULTED channel becomes OK with counter 0 and timer idle; a FAULTED station with an OK
channel then becomes DISARMED with a NOTICE (its hold count 0 is log 20); an OK channel is not changed; a channel out of
range and a station number outside 0 to 3 are refused. -/
def Obligations.ClearChannelReturnsItToOk : Prop :=
  (∀ (s : State) (p : List Byte) (rest : List Frame),
    Serving s 0x24#8 p rest → s.line.state ≠ .startup → p.length = 2 → 4 ≤ field p 0 1 →
    exec .clearChannel s = .next { s with msg := s.answered 0x24#8 rest .badArg [] }) ∧
  (∀ (s : State) (p : List Byte) (rest : List Frame) (st : StationId),
    Serving s 0x24#8 p rest → s.line.state ≠ .startup → p.length = 2 → field p 0 1 = st.val →
    (s.settings.stations.get st).channels ≤ field p 1 1 →
    exec .clearChannel s = .next { s with msg := s.answered 0x24#8 rest .badArg [] }) ∧
  ∀ (s : State) (p : List Byte) (rest : List Frame) (st : StationId) (ch : Nat) (c : Channel)
    (cleared : List Channel),
    Serving s 0x24#8 p rest → s.line.state ≠ .startup → p.length = 2 → field p 0 1 = st.val → ch = field p 1 1 →
    (s.stations.get st).channels[ch]? = some c →
    cleared =
      (s.stations.get st).channels.set ch
        (if c.fault = none then c else { c with fault := none, confirm := none, stuck := 0 }) →
    ch < (s.settings.stations.get st).channels →
    ((s.stations.get st).state ≠ .faulted →
      exec .clearChannel s = .next
        { s with
          stations := s.stations.set st { s.stations.get st with channels := cleared }
          msg := s.answered 0x24#8 rest .ok [] }) ∧
    ((s.stations.get st).state = .faulted →
      exec .clearChannel s = .next
        { s with
          stations :=
            s.stations.set st
              { s.stations.get st with
                state := .disarmed, settle := none, enable := false, channels := cleared }
          msg := s.reportedAnd (.stationNotice st .faulted .disarmed .clearChannel 0) 0x24#8 rest .ok [] })

/-- FLOOR, RANK_RESET and RELEASE_HOLDS (R68, R64, R61): each writes its own registers alone. -/
def Obligations.FloorRanksAndHoldsAreSet : Prop :=
  ∀ (s : State) (p : List Byte) (rest : List Frame), s.line.state ≠ .startup →
    (Serving s 0x23#8 p rest → p.length = 3 →
      (∀ st : StationId, field p 0 1 = st.val → field p 1 1 ≤ 15 → field p 2 1 ≤ 15 →
        exec .floor s = .next
          { s with
            settings := { s.settings with floors := s.settings.floors.set st ⟨field p 1 1, field p 2 1⟩ }
            msg := s.answered 0x23#8 rest .ok [] }) ∧
      ((4 ≤ field p 0 1 ∨ 15 < field p 1 1 ∨ 15 < field p 2 1) →
        exec .floor s = .next { s with msg := s.answered 0x23#8 rest .badArg [] })) ∧
    (Serving s 0x34#8 [] rest →
      exec .rankReset s = .next { s with ranks := ⟨0, 1, 2, 3⟩, msg := s.answered 0x34#8 rest .ok [] }) ∧
    (∀ routes : List RouteEntry, Serving s 0x33#8 [] rest → EditsOpen s →
      routes =
        s.settings.routes.map (fun e =>
          if e.hold = true ∧ ∀ st, e.stations.get st = true → (s.stations.get st).state = .armed then
            { e with hold := false }
          else e) →
      exec .releaseHolds s = .next
        { s with
          settings := { s.settings with routes := routes }
          msg := s.answered 0x33#8 rest .ok (byte (routes.countP fun e => e.hold)) })

/-! ### Requests to the tables -/

/-- SELECT and READ (R159 to R161): SELECT places the pointer where table, index and step are good; READ carries the
entries the pointer passes through, each move by its step from where it stands, and leaves it after as many moves; it
moves within its region (PointerWrapsWithinItsRegion). The pointer's three bytes and the entries are laid out as chapter 11
sections 3 and 4 give them; codes 0 to 7 are the ROM patterns of chapter 4 section 4-1. -/
def Obligations.SelectAndReadMoveThePointer : Prop :=
  (∀ (s : State) (p : List Byte) (rest : List Frame), s.line.state ≠ .startup →
    (Serving s 0x30#8 p rest → p.length = 3 →
      (∀ (t : TableName) (step : PointerStep) (last : Nat),
        (field p 0 1, t, last) ∈ [(0, .route, 63), (1, .pattern, 7 + s.settings.partition.ramPatterns)] →
        (field p 2 1, step) ∈ [(0, .hold), (1, .up), (2, .down)] →
        (field p 1 1 ≤ last →
          exec .select s = .next
            { s with
              msg :=
                ({ s.msg.serving 0x30#8 rest with pointer := ⟨t, field p 1 1, step⟩ }).replying s.clock 0x30#8 .ok
                  (pointerBytes ⟨t, field p 1 1, step⟩) }) ∧
        (last < field p 1 1 → exec .select s = .next { s with msg := s.answered 0x30#8 rest .badArg [] })) ∧
      ((2 ≤ field p 0 1 ∨ 3 ≤ field p 2 1) →
        exec .select s = .next { s with msg := s.answered 0x30#8 rest .badArg [] })) ∧
    (∀ (n : Nat) (moved : Nat → Pointer), Serving s 0x32#8 p rest → p.length = 1 → n = field p 0 1 →
      (∀ i, moved i = (Pointer.move s.settings.partition)^[i] s.msg.pointer) →
      (1 ≤ n → n ≤ 8 →
        exec .read s = .next
          { s with
            msg :=
              ({ s.msg.serving 0x32#8 rest with pointer := moved n }).replying s.clock 0x32#8 .ok
                (pointerBytes (moved n) ++ (List.range n).flatMap fun i => entryAt s.toBlock (moved i)) }) ∧
      ((n = 0 ∨ 8 < n) → exec .read s = .next { s with msg := s.answered 0x32#8 rest .badArg [] }))) ∧
  (∀ (t : TableName) (step : PointerStep) (i a z : Nat), (a, t) ∈ [(0, TableName.route), (1, .pattern)] →
    (z, step) ∈ [(0, PointerStep.hold), (1, .up), (2, .down)] → i ≤ 255 →
    pointerBytes ⟨t, i, step⟩ = [BitVec.ofNat 8 a, BitVec.ofNat 8 i, BitVec.ofNat 8 z]) ∧
  ∀ (b : Block) (t : TableName) (i : Nat) (step : PointerStep),
    (∀ r : RouteEntry, t = .route → b.settings.routes[i]? = some r → r.priority ≤ 15 → r.pattern ≤ 255 →
      r.minConfidence ≤ 255 →
      (entryAt b ⟨t, i, step⟩).length = 4 ∧ SpellsRoute (entryAt b ⟨t, i, step⟩) r ∧
        field (entryAt b ⟨t, i, step⟩) 1 1 < 32) ∧
    ∀ x : Pattern, t = .pattern →
      ([⟨0, 0, 0, 1, 4095⟩, ⟨8, 8, 0, 1, 4095⟩, ⟨16, 24, 1, 2, 4095⟩, ⟨32, 32, 1, 2, 64⟩, ⟨0, 0, 2, 1, 32⟩,
            ⟨24, 48, 0, 4, 4095⟩, ⟨64, 64, 2, 4, 4095⟩, ⟨0, 0, 3, 8, 8⟩][i]? = some x ∨
          8 ≤ i ∧ i < 8 + b.settings.partition.ramPatterns ∧ b.settings.patterns[i - 8]? = some x) →
      (entryAt b ⟨t, i, step⟩).length = 6 ∧
        Carries (entryAt b ⟨t, i, step⟩)
          [(0, 1, x.lead), (1, 1, x.trail), (2, 1, x.widen), (3, 1, x.minOn), (4, 2, x.maxOn)]

/-- The pointer's moves (R160): within 0 to 63, 0 to 7 or 8 to 7 + k, with the wraps of its step. -/
def Obligations.PointerWrapsWithinItsRegion : Prop :=
  ∀ (part : Partition) (t : TableName) (i low high : Nat),
    (t, low, high) ∈ [(TableName.route, 0, 63), (TableName.pattern, 0, 7), (TableName.pattern, 8, 7 + part.ramPatterns)] →
    low ≤ i → i ≤ high →
    Pointer.move part ⟨t, i, .hold⟩ = ⟨t, i, .hold⟩ ∧
    Pointer.move part ⟨t, i, .up⟩ = ⟨t, if i = high then low else i + 1, .up⟩ ∧
    Pointer.move part ⟨t, i, .down⟩ = ⟨t, if i = low then high else i - 1, .down⟩

/-- WRITE (R55, R56, R60, R66, R162): a batch of good entries is written entry by entry at the indices the pointer passes
through, each move by its step from where it stands; a carried hold of off clears a hold where every station of the new set
is ARMED and else keeps it, with the status HELD (log 33); a batch with an entry that is not valid, a delivery that names no
code among them (R182), or patterns with the pointer in ROM, write nothing. -/
def Obligations.WriteFillsTheTable : Prop :=
  ∀ (s : State) (p : List Byte) (rest : List Frame) (n : Nat) (part : Partition) (moved : Nat → Pointer),
    Serving s 0x31#8 p rest → EditsOpen s → s.line.state ≠ .startup → 1 ≤ n → n ≤ 8 → part = s.settings.partition →
    (∀ i, moved i = (Pointer.move part)^[i] s.msg.pointer) →
    (s.msg.pointer.table = .route → p.length = 4 * n →
      (∀ (l : List RouteEntry) (out : List RouteEntry × Bool), l.length = n →
        (∀ i e, l[i]? = some e → SpellsRoute ((p.drop (4 * i)).take 4) e ∧ GoodRoute part e) →
        out =
          (((List.range n).map moved).zip l).foldl
            (fun acc (x : Pointer × RouteEntry) =>
              let kept :=
                (acc.1.getD x.1.index RouteEntry.initial).hold = true ∧ x.2.hold = false ∧
                  ∃ st, x.2.stations.get st = true ∧ (s.stations.get st).state ≠ .armed
              (acc.1.set x.1.index { x.2 with hold := x.2.hold || decide kept }, acc.2 || decide kept))
            (s.settings.routes, false) →
        exec .write s = .next
          { s with
            settings := { s.settings with routes := out.1 }
            msg :=
              ({ s.msg.serving 0x31#8 rest with pointer := moved n }).replying s.clock
                0x31#8 (if out.2 = true then .held else .ok) (pointerBytes (moved n)) }) ∧
      ((∃ i, i < n ∧ ∀ e, SpellsRoute ((p.drop (4 * i)).take 4) e → ¬GoodRoute part e) →
        exec .write s = .next { s with msg := s.answered 0x31#8 rest .badArg [] })) ∧
    (s.msg.pointer.table = .pattern → p.length = 6 * n →
      ∀ l : List Pattern,
        l =
          (List.range n).map (fun i =>
            ⟨field p (6 * i) 1, field p (6 * i + 1) 1, field p (6 * i + 2) 1, field p (6 * i + 3) 1,
              field p (6 * i + 4) 2⟩) →
        (8 ≤ s.msg.pointer.index → (∀ x ∈ l, GoodPattern x) →
          exec .write s = .next
            { s with
              settings :=
                { s.settings with
                  patterns :=
                    (((List.range n).map moved).zip l).foldl
                      (fun acc (x : Pointer × Pattern) => acc.set (x.1.index - 8) x.2) s.settings.patterns }
              msg :=
                ({ s.msg.serving 0x31#8 rest with pointer := moved n }).replying s.clock 0x31#8 .ok
                  (pointerBytes (moved n)) }) ∧
        ((s.msg.pointer.index < 8 ∨ ∃ x ∈ l, ¬GoodPattern x) →
          exec .write s = .next { s with msg := s.answered 0x31#8 rest .badArg [] }))

/-- PARTITION (R71, R72): in STANDBY with every station DISARMED the patterns are carried across by code, a new code
opens as pattern 0, and a pointer above the new RAM region goes to 8; otherwise nothing changes. The codes 0 to 3 name P0
to P3, whose records, entries per list and RAM patterns are those of R70. -/
def Obligations.PartitionCarriesThePatterns : Prop :=
  [Partition.p0, .p1, .p2, .p3].map Partition.trackCapacity = [1024, 2048, 512, 1536] ∧
  [Partition.p0, .p1, .p2, .p3].map Partition.listCapacity = [512, 256, 768, 384] ∧
  [Partition.p0, .p1, .p2, .p3].map Partition.ramPatterns = [24, 8, 24, 16] ∧
  ∀ (s : State) (p : List Byte) (rest : List Frame),
    Serving s 0x35#8 p rest → EditsOpen s → s.line.state ≠ .startup → p.length = 1 →
    (s.line.state = .standby → (∀ st, (s.stations.get st).state = .disarmed) →
      (∀ part, (field p 0 1, part) ∈ [(0, Partition.p0), (1, .p1), (2, .p2), (3, .p3)] →
        ∃ patterns : List Pattern,
          patterns.length = part.ramPatterns ∧
          (∀ i, i < part.ramPatterns →
            patterns[i]? = some (if h : i < s.settings.patterns.length then s.settings.patterns[i] else ⟨0, 0, 0, 1, 4095⟩)) ∧
          exec .partition s = .next
            { s with
              settings := { s.settings with partition := part, patterns := patterns }
              msg :=
                ({ s.msg.serving 0x35#8 rest with
                    pointer :=
                      if s.msg.pointer.table = TableName.pattern ∧ 7 + part.ramPatterns < s.msg.pointer.index then
                        { s.msg.pointer with index := 8 }
                      else s.msg.pointer }).replying s.clock 0x35#8 .ok [] }) ∧
      (4 ≤ field p 0 1 →
        exec .partition s = .next { s with msg := s.answered 0x35#8 rest .badArg [] })) ∧
    ((s.line.state ≠ .standby ∨ ∃ st, (s.stations.get st).state ≠ .disarmed) →
      exec .partition s = .next { s with msg := s.answered 0x35#8 rest .wrongState [] })

/-! ### Requests on records -/

/-- CANCEL (R46): WAITING and COMMITTED slots are CANCELLED, the tag of a COMMITTED one leaves its list, and ACTIVE and
FINAL slots stay; with no ACTIVE slot the record retires and the reply is OK, with one it stays and the reply is
TOO_LATE; an unknown tag is NOT_FOUND. Where the retirement empties the table in DRAINING the line goes to STANDBY, its
NOTICE between the RESULT and the reply (R137; its fault cause NONE is log 20). That a cancelled slot of a record that
stays shows entry count 0 is log 21. -/
def Obligations.CancelEndsWhatIsNotUnderWay : Prop :=
  ∀ (s : State) (p : List Byte) (rest : List Frame) (tag : Nat),
    Serving s 0x40#8 p rest → s.line.state ≠ .startup → p.length = 2 → tag = field p 0 2 →
    (findRecord tag s.track.table = none →
      exec .cancel s = .next { s with msg := s.answered 0x40#8 rest .notFound [] }) ∧
    (∀ (r : ParticleRecord) (slots : Four (Option Slot)) (lists : Four (List Entry)),
      findRecord tag s.track.table = some r → (s.track.table.map (·.tag)).Nodup →
      (∀ q ∈ s.track.table, q.tag ≠ tag → q.finished = false) →
      (∀ st, slots.get st =
        (r.slots.get st).map fun sl =>
          if sl.state = .waiting ∨ sl.state = .committed then
            { sl with state := .final .cancelled, figures := sl.figures.map fun g => { g with entries := 0 } }
          else sl) →
      (∀ st, lists.get st =
        if ∃ sl, r.slots.get st = some sl ∧ sl.state = .committed then
          withdrawTags s.track.table [tag] (s.lists.get st)
        else s.lists.get st) →
      ((∃ st sl, r.slots.get st = some sl ∧ sl.state = .active) →
        exec .cancel s = .next
          { s with
            track :=
              { s.track with
                table := s.track.table.map fun q => if q.tag = tag then { q with slots := slots } else q }
            lists := lists
            msg := s.answered 0x40#8 rest .tooLate [] }) ∧
      (∀ (ended : ParticleRecord) (drained : Bool), (∀ st sl, r.slots.get st = some sl → sl.state ≠ .active) →
        ended = { r with slots := slots } →
        (drained = true ↔ s.line.state = .draining ∧ ∀ q ∈ s.track.table, q.tag = tag) →
        exec .cancel s = .next
          { s with
            track :=
              ⟨s.track.table.filter fun q => decide (q.tag ≠ tag), countOutcomes s.track.outcomes ended⟩
            lists := lists
            line := if drained = true then { s.line with state := .standby } else s.line
            msg :=
              (offerAll
                (resultsOf [ended] ++
                  (if drained = true then [.lineNotice .draining .standby .drainDone .none] else []))
                (s.msg.serving 0x40#8 rest)).replying s.clock 0x40#8 .ok [] }))

/-- AMEND (R48 to R50): with every slot WAITING or NOT_CHOSEN the record is judged by its new class's entry; where it
passes, it is rebuilt in its place with new slots, and where it fails it ends CANCELLED and retires; otherwise it is
TOO_LATE. Where the end of the last record ends a drain, the line's NOTICE stands between the RESULT and the reply (R137;
its fault cause NONE is log 20). A rebuilt record's slots and the ranks are those of a new choice, and each commit that is due already is made
(`AdmissionPlacesTheRecord` says how); the last clause is of FIXED and ALL with no commit due yet. -/
def Obligations.AmendRebuildsOrEndsTheRecord : Prop :=
  ∀ (s : State) (p : List Byte) (rest : List Frame) (tag cls : Nat),
    Serving s 0x41#8 p rest → s.line.state ≠ .startup → p.length = 3 → tag = field p 0 2 → cls = field p 2 1 →
    (63 < cls → exec .amend s = .next { s with msg := s.answered 0x41#8 rest .badArg [] }) ∧
    (cls ≤ 63 → findRecord tag s.track.table = none →
      exec .amend s = .next { s with msg := s.answered 0x41#8 rest .notFound [] }) ∧
    (∀ (r : ParticleRecord) (e : RouteEntry), cls ≤ 63 → findRecord tag s.track.table = some r → e = s.toBlock.route cls →
      ((∃ st sl, r.slots.get st = some sl ∧ sl.state ≠ .waiting ∧ sl.state ≠ .final .notChosen) →
        exec .amend s = .next { s with msg := s.answered 0x41#8 rest .tooLate [] }) ∧
      ((∀ st sl, r.slots.get st = some sl → sl.state = .waiting ∨ sl.state = .final .notChosen) →
        (s.track.table.map (·.tag)).Nodup → (∀ q ∈ s.track.table, q.tag ≠ tag → q.finished = false) →
        (∀ (code : Nat) (ended : ParticleRecord) (drained : Bool),
          (code = 1 ∧ e.hold = true) ∨
            (code = 2 ∧ e.hold = false ∧ ∀ st, e.stations.get st = false) ∨
            (code = 3 ∧ e.hold = false ∧ (∃ st, e.stations.get st = true) ∧ r.confidence < e.minConfidence) →
          ended =
            { r with
              cls := cls
              slots :=
                r.slots.map fun o => o.map fun sl =>
                  { sl with state := .final .cancelled, figures := sl.figures.map fun g => { g with entries := 0 } } } →
          (drained = true ↔ s.line.state = .draining ∧ ∀ q ∈ s.track.table, q.tag = tag) →
          exec .amend s = .next
            { s with
              track :=
                ⟨s.track.table.filter fun q => decide (q.tag ≠ tag), countOutcomes s.track.outcomes ended⟩
              line := if drained = true then { s.line with state := .standby } else s.line
              msg :=
                (offerAll
                  (resultsOf [ended] ++
                    (if drained = true then [.lineNotice .draining .standby .drainDone .none] else []))
                  (s.msg.serving 0x41#8 rest)).replying s.clock 0x41#8 .ok (byte code) }) ∧
        (e.hold = false → (∃ st, e.stations.get st = true) → e.minConfidence ≤ r.confidence →
          ∀ out, out =
              drainDone
                (retireFinished
                  (commitDueSlots tag
                    { s.toBlock with
                      msg := s.msg.serving 0x41#8 rest
                      ranks := (createSlots s.toBlock e r.position).2
                      track :=
                        { s.track with
                          table :=
                            s.track.table.map fun q =>
                              if q.tag = tag then
                                { q with
                                  cls := cls, action := e.action, priority := e.priority, pattern := e.pattern
                                  delivery := e.delivery, report := e.report
                                  slots := (createSlots s.toBlock e r.position).1 }
                              else q } })) →
          exec .amend s = .next
            { s with toBlock := { out with msg := out.msg.replying s.clock 0x41#8 .ok (byte 0) } }) ∧
        (∀ (slots : Four (Option Slot)) (slice : StationId → Int),
          e.hold = false → (∃ st, e.stations.get st = true) → e.minConfidence ≤ r.confidence →
          e.delivery ≠ .leastLoaded →
          (∀ st, slice st =
            (((r.position + (s.settings.stations.get st).leadDistance) / s.settings.sliceLength : Nat) : Int) -
              (s.settings.stations.get st).horizon) →
          (∀ st, e.stations.get st = true → (s.pos.slice : Int) < slice st) →
          (∀ st, slots.get st =
            if e.stations.get st = true then
              some ⟨.waiting, slice st, none, ⟨false, false, false, false, false⟩⟩
            else none) →
          exec .amend s = .next
            { s with
              track :=
                { s.track with
                  table :=
                    s.track.table.map fun q =>
                      if q.tag = tag then
                        { q with
                          cls := cls, action := e.action, priority := e.priority, pattern := e.pattern
                          delivery := e.delivery, report := e.report, slots := slots }
                      else q }
              msg := s.answered 0x41#8 rest .ok (byte 0) })))

/-! ### Settings store -/

/-- SAVE, SAVE_END, RESTORE, RESTORE_END (R171 to R173): a SAVE takes a copy with every hold off and the image fails from
then on; its end makes the copy the image; a RESTORE, in STANDBY with every station DISARMED, ends by replacing the
working settings from a sound image with the stations still DISARMED, each block taking the change of its items. -/
def Obligations.SaveAndRestoreMoveTheSettings : Prop :=
  ∀ (s : State) (rest : List Frame) (off : Settings → Settings),
    (∀ x, off x = { x with routes := x.routes.map fun e => { e with hold := false } }) →
    (Serving s 0x60#8 [] rest → EditsOpen s → s.line.state ≠ .startup →
      exec .save s = .next
        { s with
          store :=
            { s.store with activity := .saving (off s.settings), image := { s.store.image with sound := false } }
          msg := s.answered 0x60#8 rest .ok [] }) ∧
    (∀ copy, s.resetting = none → s.store.activity = .saving copy →
      exec (.saveEnd true) s = .next
        { s with
          store := { s.store with activity := .idle, image := ⟨true, copy⟩ }
          msg := s.reported (.done .save .ok none none 0) } ∧
      exec (.saveEnd false) s = .next
        { s with
          store := { s.store with activity := .idle, image := { s.store.image with sound := false } }
          msg := s.reported (.done .save .writeFail none none 0) }) ∧
    (Serving s 0x61#8 [] rest → EditsOpen s → s.line.state ≠ .startup →
      (s.line.state = .standby → (∀ st, (s.stations.get st).state = .disarmed) →
        exec .restore s = .next
          { s with
            store := { s.store with activity := .restoring }
            msg := s.answered 0x61#8 rest .ok [] }) ∧
      ((s.line.state ≠ .standby ∨ ∃ st, (s.stations.get st).state ≠ .disarmed) →
        exec .restore s = .next { s with msg := s.answered 0x61#8 rest .wrongState [] })) ∧
    (s.resetting = none → s.store.activity = .restoring →
      (s.store.image.sound = false →
        exec .restoreEnd s = .next
          { s with
            store := { s.store with activity := .idle }
            msg := s.reported (.done .restore .checkFail none none 0) }) ∧
      (s.store.image.sound = true → (∃ st, (s.stations.get st).state ≠ .disarmed) →
        exec .restoreEnd s = .next
          { s with
            store := { s.store with activity := .idle }
            msg := s.reported (.done .restore .abandoned none none 0) }) ∧
      (s.store.image.sound = true → (∀ st, (s.stations.get st).state = .disarmed) →
        ∀ new : Settings, new = off s.store.image.contents →
        exec .restoreEnd s = .next
          { s with
            store := { s.store with activity := .idle }
            settings := new
            pos :=
              { s.pos with
                slice := s.pos.x / new.sliceLength
                reverseFlag :=
                  if new.reverseLimit < s.pos.backlash then true
                  else if s.pos.backlash = 0 then false else s.pos.reverseFlag }
            stations := s.stations.map fun x => { x with channels := List.replicate 64 ⟨none, none, 0, none⟩ }
            msg :=
              startSending s.clock
                (offerReport (.done .restore .ok none none 0)
                  { s.msg with
                    pointer :=
                      if s.msg.pointer.table = TableName.pattern ∧
                          7 + new.partition.ramPatterns < s.msg.pointer.index then
                        { s.msg.pointer with index := 8 }
                      else s.msg.pointer }) }))

/-- LOCK_OPEN, LOCK_KEYED, LOCK_SEALED (R175): the first two set the mode, its retained copy and the default; SEALED is
no edit and leaves the default; a code that names no mode is refused. -/
def Obligations.LockOrdersSetTheMode : Prop :=
  ∀ (s : State) (rest : List Frame) (code : Byte), Serving s 0x62#8 [code] rest → s.line.state ≠ .startup →
    (code = 0#8 → EditsOpen s →
      exec .lockOpen s = .next
        { s with
          store := { s.store with lock := .opened, lockCopy := .opened }
          settings := { s.settings with defaultLock := .opened }
          msg := s.answered 0x62#8 rest .ok [] }) ∧
    (code = 1#8 → EditsOpen s →
      exec .lockKeyed s = .next
        { s with
          store := { s.store with lock := .keyed, lockCopy := .keyed }
          settings := { s.settings with defaultLock := .keyed }
          msg := s.answered 0x62#8 rest .ok [] }) ∧
    (code = 2#8 →
      exec .lockSealed s = .next
        { s with
          store := { s.store with lock := .sealed, lockCopy := .sealed }
          msg := s.answered 0x62#8 rest .ok [] }) ∧
    (3 ≤ code.toNat → ∀ c ∈ [Instr.lockOpen, Instr.lockKeyed, Instr.lockSealed],
      exec c s = .next { s with msg := s.answered 0x62#8 rest .badArg [] })

/-! ### Maintenance -/

/-- PURGE_START, PURGE_SUSPEND, PURGE_RESUME, PURGE_ABORT, CALIBRATE (R177 to R179): what each order does to the
sequencer, and its replies. Three clauses are the model's readings of R178 (log 22): SUSPEND keeps a channel that still
waits for its shot; SUSPEND in the gap of the last turn, with no OK channel left, completes the purge (IDLE, DONE OK, reply
OK); RESUME passes on from a channel in hand that is FAULTED, and completes the purge where none is left. -/
def Obligations.MaintenanceOrdersMoveTheSequencer : Prop :=
  ∀ (s : State) (p : List Byte) (rest : List Frame), s.line.state ≠ .startup →
    (Serving s 0x70#8 p rest → p.length = 7 → field p 0 1 = 0 → 4 ≤ field p 1 1 →
      exec .purgeStart s = .next { s with msg := s.answered 0x70#8 rest .badArg [] }) ∧
    (∀ (st : StationId) (on gap cycles : Nat),
      Serving s 0x70#8 p rest → p.length = 7 → field p 0 1 = 0 → field p 1 1 = st.val → on = field p 2 2 →
      gap = field p 4 2 → cycles = field p 6 1 →
      ((on = 0 ∨ 500 < on ∨ gap = 0 ∨ 500 < gap ∨ cycles = 0 ∨ 16 < cycles) →
        exec .purgeStart s = .next { s with msg := s.answered 0x70#8 rest .badArg [] }) ∧
      (1 ≤ on → on ≤ 500 → 1 ≤ gap → gap ≤ 500 → 1 ≤ cycles → cycles ≤ 16 →
        (s.maint ≠ .idle → exec .purgeStart s = .next { s with msg := s.answered 0x70#8 rest .busy [] }) ∧
        (s.maint = .idle → (s.line.state ≠ .standby ∨ (s.stations.get st).state ≠ .armed) →
          exec .purgeStart s = .next { s with msg := s.answered 0x70#8 rest .wrongState [] }) ∧
        (s.maint = .idle → s.line.state = .standby → (s.stations.get st).state = .armed →
          (∀ ch, FirstOk s.toBlock st 0 ch →
            exec .purgeStart s = .next
              { s with
                maint := .purging ⟨st, on, gap, cycles, 1, ch, .waiting⟩
                msg := s.answered 0x70#8 rest .ok [] }) ∧
          (NoneOk s.toBlock st 0 →
            exec .purgeStart s = .next
              { s with
                msg :=
                  s.reportedAnd (.done .purge .ok (some st) (some (faultedCount s.toBlock st)) 0) 0x70#8 rest .ok
                    [] })))) ∧
    (Serving s 0x70#8 [1#8] rest →
      (∀ q, s.maint = .purging q → (q.phase = .waiting ∨ ∃ t, q.phase = .shot t) →
        exec .purgeSuspend s = .next
          { s with maint := .suspended { q with phase := .waiting }, msg := s.answered 0x70#8 rest .ok [] }) ∧
      (∀ q t, s.maint = .purging q → q.phase = .gap t → 1 ≤ q.cycle → q.cycle ≤ q.cycles →
        (∀ ch, FirstOk s.toBlock q.station (q.channel + 1) ch →
          exec .purgeSuspend s = .next
            { s with
              maint := .suspended { q with channel := ch, phase := .waiting }
              msg := s.answered 0x70#8 rest .ok [] }) ∧
        (NoneOk s.toBlock q.station (q.channel + 1) →
          (∀ ch, q.cycle < q.cycles → FirstOk s.toBlock q.station 0 ch →
            exec .purgeSuspend s = .next
              { s with
                maint := .suspended { q with cycle := q.cycle + 1, channel := ch, phase := .waiting }
                msg := s.answered 0x70#8 rest .ok [] }) ∧
          ((q.cycle = q.cycles ∨ NoneOk s.toBlock q.station 0) →
            exec .purgeSuspend s = .next
              { s with
                maint := .idle
                msg :=
                  s.reportedAnd (.done .purge .ok (some q.station) (some (faultedCount s.toBlock q.station)) 0) 0x70#8
                    rest .ok [] }))) ∧
      (∀ q, s.maint = .suspended q → exec .purgeSuspend s = .next { s with msg := s.answered 0x70#8 rest .ok [] }) ∧
      ((s.maint = .idle ∨ ∃ c, s.maint = .calibrating c) →
        exec .purgeSuspend s = .next { s with msg := s.answered 0x70#8 rest .wrongState [] })) ∧
    (Serving s 0x70#8 [2#8] rest →
      (∀ q, s.maint = .suspended q → 1 ≤ q.cycle → q.cycle ≤ q.cycles →
        (∀ ch, FirstOk s.toBlock q.station q.channel ch →
          exec .purgeResume s = .next
            { s with
              maint := .purging { q with channel := ch, phase := .waiting }
              msg := s.answered 0x70#8 rest .ok [] }) ∧
        (NoneOk s.toBlock q.station q.channel →
          (∀ ch, q.cycle < q.cycles → FirstOk s.toBlock q.station 0 ch →
            exec .purgeResume s = .next
              { s with
                maint := .purging { q with cycle := q.cycle + 1, channel := ch, phase := .waiting }
                msg := s.answered 0x70#8 rest .ok [] }) ∧
          ((q.cycle = q.cycles ∨ NoneOk s.toBlock q.station 0) →
            exec .purgeResume s = .next
              { s with
                maint := .idle
                msg :=
                  s.reportedAnd (.done .purge .ok (some q.station) (some (faultedCount s.toBlock q.station)) 0) 0x70#8
                    rest .ok [] }))) ∧
      (∀ q, s.maint = .purging q → exec .purgeResume s = .next { s with msg := s.answered 0x70#8 rest .ok [] }) ∧
      ((s.maint = .idle ∨ ∃ c, s.maint = .calibrating c) →
        exec .purgeResume s = .next { s with msg := s.answered 0x70#8 rest .wrongState [] })) ∧
    (Serving s 0x70#8 [3#8] rest →
      (∀ q, (s.maint = .purging q ∨ s.maint = .suspended q) →
        exec .purgeAbort s = .next
          { s with
            maint := .idle
            msg :=
              s.reportedAnd (.done .purge .aborted (some q.station) (some (faultedCount s.toBlock q.station)) 0) 0x70#8
                rest .ok [] }) ∧
      ((s.maint = .idle ∨ ∃ c, s.maint = .calibrating c) →
        exec .purgeAbort s = .next { s with msg := s.answered 0x70#8 rest .wrongState [] })) ∧
    (Serving s 0x71#8 p rest → p.length = 2 → 4 ≤ field p 0 1 →
      exec .calibrate s = .next { s with msg := s.answered 0x71#8 rest .badArg [] }) ∧
    (∀ (st : StationId) (ch : Nat),
      Serving s 0x71#8 p rest → p.length = 2 → field p 0 1 = st.val → ch = field p 1 1 →
      ((s.settings.stations.get st).channels ≤ ch →
        exec .calibrate s = .next { s with msg := s.answered 0x71#8 rest .badArg [] }) ∧
      (ch < (s.settings.stations.get st).channels →
        (s.maint ≠ .idle → exec .calibrate s = .next { s with msg := s.answered 0x71#8 rest .busy [] }) ∧
        (s.maint = .idle →
          (s.line.state ≠ .standby ∨ (s.stations.get st).state ≠ .armed ∨ channelOk s.toBlock st ch = false) →
          exec .calibrate s = .next { s with msg := s.answered 0x71#8 rest .wrongState [] }) ∧
        (s.maint = .idle → s.line.state = .standby → (s.stations.get st).state = .armed →
          channelOk s.toBlock st ch = true →
          exec .calibrate s = .next
            { s with
              maint := .calibrating ⟨st, ch, [], none, none⟩
              msg := s.answered 0x71#8 rest .ok [] })))

/-- PURGE_SHOT_END, PURGE_GAP_END (R177): a shot's end starts its gap; a gap's end takes the next OK channel in hand, in
this cycle or the next, or completes the purge. What a refresh does for the sequencer (R117, R177, R179, R180): it begins
the purge shot that waits and the calibration shot that is due, with the confirm timer where it is idle; feedback on ends
the calibration shot that was in progress when the refresh began (log 24) with its delay, rounded up to 100 µs; and the
eighth delay makes the latency. That a purge shot begins also on a channel that became FAULTED while it waited is the
model's reading (log 22). -/
def Obligations.MaintenanceRunsToItsEnd : Prop :=
  (∀ (s : State) (q : Purge), s.resetting = none → s.maint = .purging q →
    (∀ t, q.phase = .shot t → t + q.onTime * 1000 ≤ s.clock →
      exec .purgeShotEnd s = .next
        { s with maint := .purging { q with phase := .gap s.clock }, msg := s.settledMsg }) ∧
    (∀ t, q.phase = .gap t → t + q.gap * 1000 ≤ s.clock → 1 ≤ q.cycle → q.cycle ≤ q.cycles →
      (∀ ch, FirstOk s.toBlock q.station (q.channel + 1) ch →
        exec .purgeGapEnd s = .next
          { s with maint := .purging { q with channel := ch, phase := .waiting }, msg := s.settledMsg }) ∧
      (∀ ch, NoneOk s.toBlock q.station (q.channel + 1) → q.cycle < q.cycles → FirstOk s.toBlock q.station 0 ch →
        exec .purgeGapEnd s = .next
          { s with
            maint := .purging { q with cycle := q.cycle + 1, channel := ch, phase := .waiting }
            msg := s.settledMsg }) ∧
      (NoneOk s.toBlock q.station (q.channel + 1) → (q.cycle = q.cycles ∨ NoneOk s.toBlock q.station 0) →
        exec .purgeGapEnd s = .next
          { s with
            maint := .idle
            msg :=
              s.reported
                (.done .purge .ok (some q.station) (some (faultedCount s.toBlock q.station)) 0) }))) ∧
  (∀ (b : Block) (started : StationId → Nat → Four Station),
    (∀ st ch, started st ch =
      b.stations.set st
        { b.stations.get st with
          channels :=
            (b.stations.get st).channels.mapIdx fun i c =>
              if i = ch ∧ c.confirm = none then { c with confirm := some b.clock } else c }) →
    (∀ p, b.maint = .purging p →
      (p.phase = .waiting →
        beginShots b =
          { b with
            maint := .purging { p with phase := .shot b.clock }
            stations := started p.station p.channel }) ∧
      (p.phase ≠ .waiting → beginShots b = b)) ∧
    (∀ c, b.maint = .calibrating c →
      (c.shot = none → (∀ t, c.lastStart = some t → t + 100000 ≤ b.clock) →
        beginShots b =
          { b with
            maint := .calibrating { c with lastStart := some b.clock, shot := some b.clock }
            stations := started c.station c.channel }) ∧
      ((c.shot ≠ none ∨ ∃ t, c.lastStart = some t ∧ b.clock < t + 100000) → beginShots b = b)) ∧
    ((b.maint = .idle ∨ ∃ p, b.maint = .suspended p) → beginShots b = b)) ∧
  (∀ (before : Sequencer) (b : Block),
    (∀ (c d : Calibration) (start : Nat) (delays : List Nat), before = .calibrating c → b.maint = .calibrating d →
      c.shot = some start →
      b.chain.feedback.getD ((b.config c.station).firstOutput + c.channel) false = true →
      delays = c.delays ++ [(b.clock - start + 99) / 100 * 100] →
      (delays.length < 8 →
        calibrationStep before b = { b with maint := .calibrating { c with delays := delays, shot := none } }) ∧
      (8 ≤ delays.length → calibrationStep before b = finishCalibration c delays b)) ∧
    ((∀ c d start, before = .calibrating c → b.maint = .calibrating d → c.shot = some start →
        b.chain.feedback.getD ((b.config c.station).firstOutput + c.channel) false = false) →
      calibrationStep before b = b)) ∧
  (∀ (b : Block) (c : Calibration) (delays : List Nat) (mean : Nat), mean = (delays.sum + 7) / 8 →
    (mean ≤ 262143 →
      finishCalibration c delays b =
        { b with
          settings :=
            { b.settings with
              stations :=
                b.settings.stations.set c.station { b.settings.stations.get c.station with latency := mean } }
          maint := .idle
          msg := offerReport (.done .calibrate .ok (some c.station) (some c.channel) mean) b.msg }) ∧
    (262143 < mean →
      finishCalibration c delays b =
        { b with
          maint := .idle
          msg := offerReport (.done .calibrate .outOfRange (some c.station) (some c.channel) 0) b.msg }))

/-! ### Recovery and resets -/

/-- CLEAR_FAULT and RESTART (R144, R147): accepted, CLEAR_FAULT orders a census, during which no HALT has been asserted
yet, and its reply waits for it; RESTART is answered OK with the reset to follow its reply, unless a SAVE is in
progress. -/
def Obligations.RecoveryRequestsAreTakenInHand : Prop :=
  ∀ (s : State) (rest : List Frame), s.line.state ≠ .startup →
    (Serving s 0x80#8 [] rest →
      (s.line.state = .fault → s.line.halt.taken = false →
        exec .clearFault s = .next
          { s with
            chain := { s.chain with census := true }
            line := { s.line with haltInCensus := false }
            msg := startSending s.clock (s.msg.serving 0x80#8 rest) }) ∧
      ((s.line.state ≠ .fault ∨ s.line.halt.taken = true) →
        exec .clearFault s = .next { s with msg := s.answered 0x80#8 rest .wrongState [] })) ∧
    (Serving s 0x81#8 [] rest →
      ((∀ copy, s.store.activity ≠ .saving copy) →
        exec .restart s = .next { s with msg := s.answered 0x81#8 rest .ok [] }) ∧
      (∀ copy, s.store.activity = .saving copy →
        exec .restart s = .next { s with msg := s.answered 0x81#8 rest .busy [] })) ∧
    (∀ m : MessageUnit, ∃ w, (placeReply 0x81#8 ⟨.ok, []⟩ m).reply = some w ∧ w.restart = true)

/-- POWER_ON, SUPPLY_DIP, RESET_LINE_ASSERT (R145, R146, R148, R176): every block takes its values after a reset; a cause of
the supply writes the record anew and loses the lock's copy, the reset line only where no reset is in progress. The values
are written out in `Block.Blank` and, for the working settings, in `FactoryDefaults` (R174). That the time base stands until the reset ends is log 5, and that the working settings are at the factory defaults from its start
is log 30. -/
def Obligations.ResetCausesBlankTheBlocks : Prop :=
  ∀ s : State,
    (∃ t, exec .powerOn s = .next t ∧ t.resetLine = s.resetLine ∧
      ResetBegun s t ⟨.powerOn, none, none⟩ .opened
        { s.resetting.getD ⟨s.clock, false, false, false, none⟩ with bySupply := true, supplyAbove := none }) ∧
    (∃ t, exec .supplyDip s = .next t ∧ t.resetLine = s.resetLine ∧
      ResetBegun s t ⟨.supplyDip, none, none⟩ .opened
        { s.resetting.getD ⟨s.clock, false, false, false, none⟩ with bySupply := true, supplyAbove := none }) ∧
    (∀ saving : Bool, (saving = true ↔ ∃ copy, s.store.activity = .saving copy) →
      s.resetLine = false → s.resetting = none →
      ∃ t, exec .resetLineAssert s = .next t ∧ t.resetLine = true ∧
        ResetBegun s t ⟨.resetLine, some s.line.state, some saving⟩ s.store.lockCopy
          ⟨s.clock, false, true, false, none⟩) ∧
    (∀ progress, s.resetLine = false → s.resetting = some progress →
      ∃ t, exec .resetLineAssert s = .next t ∧ t.resetLine = true ∧
        ResetBegun s t s.line.record s.store.lockCopy { progress with byLine := true })

/-- RESET_LINE_RELEASE, SUPPLY_RISES_ABOVE_RESET_THRESHOLD, RESET_END (R2, R102, R139, R145, R170): the reset ends when
every cause that arrived would end it; then the time base is 0, the taken states are the levels, and the load begins. That
a RESET_END before then changes nothing is log 3. -/
def Obligations.ResetEndsWhenEveryCauseDoes : Prop :=
  ∀ s : State,
    exec .resetLineRelease s = .next { s with resetLine := false, msg := s.settledMsg } ∧
    (∀ progress, s.resetting = some progress →
      (progress.bySupply = true → progress.supplyAbove = none →
        exec .supplyRisesAboveResetThreshold s = .next
          { s with resetting := some { progress with supplyAbove := some s.clock }, msg := s.settledMsg }) ∧
      ((progress.bySupply = true → ∃ t, progress.supplyAbove = some t ∧ t + 10000 ≤ s.clock) →
        (progress.byLine = true → s.resetLine = false ∧ progress.began + 100 ≤ s.clock) →
        (progress.byRestart = true → progress.began + 100 ≤ s.clock) →
        exec .resetEnd s = .next
          { s with
            clock := 0
            resetting := none
            line :=
              { s.line with
                halt := ⟨s.line.halt.level, s.line.halt.level, none⟩
                airLow := ⟨s.line.airLow.level, s.line.airLow.level, none⟩
                key := ⟨s.line.key.level, s.line.key.level, none⟩ }
            store := { s.store with loading := true }
            msg := startSending 0 s.msg }) ∧
      (((progress.bySupply = true ∧ ∀ t, progress.supplyAbove = some t → s.clock < t + 10000) ∨
          (progress.byLine = true ∧ (s.resetLine = true ∨ s.clock < progress.began + 100)) ∨
          (progress.byRestart = true ∧ s.clock < progress.began + 100)) →
        exec .resetEnd s = .next s))
end

