-- ==== Sys2Proof/Laws/State.lean ====
section
/-! SUPPORT. One lemma per field per update of the state, true by rfl. -/

namespace Sys2Proof.Machine.Block

variable (b : Block)

@[simp] theorem setClock_clock (x : Nat) : (b.setClock x).clock = x := rfl
@[simp] theorem setClock_encA (x : Nat) : (b.setClock x).encA = b.encA := rfl
@[simp] theorem setClock_encB (x : Nat) : (b.setClock x).encB = b.encB := rfl
@[simp] theorem setClock_resetLine (x : Nat) : (b.setClock x).resetLine = b.resetLine := rfl
@[simp] theorem setClock_resetting (x : Nat) : (b.setClock x).resetting = b.resetting := rfl
@[simp] theorem setClock_pos (x : Nat) : (b.setClock x).pos = b.pos := rfl
@[simp] theorem setClock_intake (x : Nat) : (b.setClock x).intake = b.intake := rfl
@[simp] theorem setClock_track (x : Nat) : (b.setClock x).track = b.track := rfl
@[simp] theorem setClock_lists (x : Nat) : (b.setClock x).lists = b.lists := rfl
@[simp] theorem setClock_ranks (x : Nat) : (b.setClock x).ranks = b.ranks := rfl
@[simp] theorem setClock_settings (x : Nat) : (b.setClock x).settings = b.settings := rfl
@[simp] theorem setClock_stations (x : Nat) : (b.setClock x).stations = b.stations := rfl
@[simp] theorem setClock_chain (x : Nat) : (b.setClock x).chain = b.chain := rfl
@[simp] theorem setClock_line (x : Nat) : (b.setClock x).line = b.line := rfl
@[simp] theorem setClock_msg (x : Nat) : (b.setClock x).msg = b.msg := rfl
@[simp] theorem setClock_store (x : Nat) : (b.setClock x).store = b.store := rfl
@[simp] theorem setClock_maint (x : Nat) : (b.setClock x).maint = b.maint := rfl

@[simp] theorem setResetLine_clock (x : Bool) : (b.setResetLine x).clock = b.clock := rfl
@[simp] theorem setResetLine_encA (x : Bool) : (b.setResetLine x).encA = b.encA := rfl
@[simp] theorem setResetLine_encB (x : Bool) : (b.setResetLine x).encB = b.encB := rfl
@[simp] theorem setResetLine_resetLine (x : Bool) : (b.setResetLine x).resetLine = x := rfl
@[simp] theorem setResetLine_resetting (x : Bool) : (b.setResetLine x).resetting = b.resetting := rfl
@[simp] theorem setResetLine_pos (x : Bool) : (b.setResetLine x).pos = b.pos := rfl
@[simp] theorem setResetLine_intake (x : Bool) : (b.setResetLine x).intake = b.intake := rfl
@[simp] theorem setResetLine_track (x : Bool) : (b.setResetLine x).track = b.track := rfl
@[simp] theorem setResetLine_lists (x : Bool) : (b.setResetLine x).lists = b.lists := rfl
@[simp] theorem setResetLine_ranks (x : Bool) : (b.setResetLine x).ranks = b.ranks := rfl
@[simp] theorem setResetLine_settings (x : Bool) : (b.setResetLine x).settings = b.settings := rfl
@[simp] theorem setResetLine_stations (x : Bool) : (b.setResetLine x).stations = b.stations := rfl
@[simp] theorem setResetLine_chain (x : Bool) : (b.setResetLine x).chain = b.chain := rfl
@[simp] theorem setResetLine_line (x : Bool) : (b.setResetLine x).line = b.line := rfl
@[simp] theorem setResetLine_msg (x : Bool) : (b.setResetLine x).msg = b.msg := rfl
@[simp] theorem setResetLine_store (x : Bool) : (b.setResetLine x).store = b.store := rfl
@[simp] theorem setResetLine_maint (x : Bool) : (b.setResetLine x).maint = b.maint := rfl

@[simp] theorem setResetting_clock (x : Option ResetProgress) : (b.setResetting x).clock = b.clock := rfl
@[simp] theorem setResetting_encA (x : Option ResetProgress) : (b.setResetting x).encA = b.encA := rfl
@[simp] theorem setResetting_encB (x : Option ResetProgress) : (b.setResetting x).encB = b.encB := rfl
@[simp] theorem setResetting_resetLine (x : Option ResetProgress) : (b.setResetting x).resetLine = b.resetLine := rfl
@[simp] theorem setResetting_resetting (x : Option ResetProgress) : (b.setResetting x).resetting = x := rfl
@[simp] theorem setResetting_pos (x : Option ResetProgress) : (b.setResetting x).pos = b.pos := rfl
@[simp] theorem setResetting_intake (x : Option ResetProgress) : (b.setResetting x).intake = b.intake := rfl
@[simp] theorem setResetting_track (x : Option ResetProgress) : (b.setResetting x).track = b.track := rfl
@[simp] theorem setResetting_lists (x : Option ResetProgress) : (b.setResetting x).lists = b.lists := rfl
@[simp] theorem setResetting_ranks (x : Option ResetProgress) : (b.setResetting x).ranks = b.ranks := rfl
@[simp] theorem setResetting_settings (x : Option ResetProgress) : (b.setResetting x).settings = b.settings := rfl
@[simp] theorem setResetting_stations (x : Option ResetProgress) : (b.setResetting x).stations = b.stations := rfl
@[simp] theorem setResetting_chain (x : Option ResetProgress) : (b.setResetting x).chain = b.chain := rfl
@[simp] theorem setResetting_line (x : Option ResetProgress) : (b.setResetting x).line = b.line := rfl
@[simp] theorem setResetting_msg (x : Option ResetProgress) : (b.setResetting x).msg = b.msg := rfl
@[simp] theorem setResetting_store (x : Option ResetProgress) : (b.setResetting x).store = b.store := rfl
@[simp] theorem setResetting_maint (x : Option ResetProgress) : (b.setResetting x).maint = b.maint := rfl

@[simp] theorem setPos_clock (x : PositionUnit) : (b.setPos x).clock = b.clock := rfl
@[simp] theorem setPos_encA (x : PositionUnit) : (b.setPos x).encA = b.encA := rfl
@[simp] theorem setPos_encB (x : PositionUnit) : (b.setPos x).encB = b.encB := rfl
@[simp] theorem setPos_resetLine (x : PositionUnit) : (b.setPos x).resetLine = b.resetLine := rfl
@[simp] theorem setPos_resetting (x : PositionUnit) : (b.setPos x).resetting = b.resetting := rfl
@[simp] theorem setPos_pos (x : PositionUnit) : (b.setPos x).pos = x := rfl
@[simp] theorem setPos_intake (x : PositionUnit) : (b.setPos x).intake = b.intake := rfl
@[simp] theorem setPos_track (x : PositionUnit) : (b.setPos x).track = b.track := rfl
@[simp] theorem setPos_lists (x : PositionUnit) : (b.setPos x).lists = b.lists := rfl
@[simp] theorem setPos_ranks (x : PositionUnit) : (b.setPos x).ranks = b.ranks := rfl
@[simp] theorem setPos_settings (x : PositionUnit) : (b.setPos x).settings = b.settings := rfl
@[simp] theorem setPos_stations (x : PositionUnit) : (b.setPos x).stations = b.stations := rfl
@[simp] theorem setPos_chain (x : PositionUnit) : (b.setPos x).chain = b.chain := rfl
@[simp] theorem setPos_line (x : PositionUnit) : (b.setPos x).line = b.line := rfl
@[simp] theorem setPos_msg (x : PositionUnit) : (b.setPos x).msg = b.msg := rfl
@[simp] theorem setPos_store (x : PositionUnit) : (b.setPos x).store = b.store := rfl
@[simp] theorem setPos_maint (x : PositionUnit) : (b.setPos x).maint = b.maint := rfl

@[simp] theorem setIntake_clock (x : IntakeUnit) : (b.setIntake x).clock = b.clock := rfl
@[simp] theorem setIntake_encA (x : IntakeUnit) : (b.setIntake x).encA = b.encA := rfl
@[simp] theorem setIntake_encB (x : IntakeUnit) : (b.setIntake x).encB = b.encB := rfl
@[simp] theorem setIntake_resetLine (x : IntakeUnit) : (b.setIntake x).resetLine = b.resetLine := rfl
@[simp] theorem setIntake_resetting (x : IntakeUnit) : (b.setIntake x).resetting = b.resetting := rfl
@[simp] theorem setIntake_pos (x : IntakeUnit) : (b.setIntake x).pos = b.pos := rfl
@[simp] theorem setIntake_intake (x : IntakeUnit) : (b.setIntake x).intake = x := rfl
@[simp] theorem setIntake_track (x : IntakeUnit) : (b.setIntake x).track = b.track := rfl
@[simp] theorem setIntake_lists (x : IntakeUnit) : (b.setIntake x).lists = b.lists := rfl
@[simp] theorem setIntake_ranks (x : IntakeUnit) : (b.setIntake x).ranks = b.ranks := rfl
@[simp] theorem setIntake_settings (x : IntakeUnit) : (b.setIntake x).settings = b.settings := rfl
@[simp] theorem setIntake_stations (x : IntakeUnit) : (b.setIntake x).stations = b.stations := rfl
@[simp] theorem setIntake_chain (x : IntakeUnit) : (b.setIntake x).chain = b.chain := rfl
@[simp] theorem setIntake_line (x : IntakeUnit) : (b.setIntake x).line = b.line := rfl
@[simp] theorem setIntake_msg (x : IntakeUnit) : (b.setIntake x).msg = b.msg := rfl
@[simp] theorem setIntake_store (x : IntakeUnit) : (b.setIntake x).store = b.store := rfl
@[simp] theorem setIntake_maint (x : IntakeUnit) : (b.setIntake x).maint = b.maint := rfl

@[simp] theorem setTrack_clock (x : TrackUnit) : (b.setTrack x).clock = b.clock := rfl
@[simp] theorem setTrack_encA (x : TrackUnit) : (b.setTrack x).encA = b.encA := rfl
@[simp] theorem setTrack_encB (x : TrackUnit) : (b.setTrack x).encB = b.encB := rfl
@[simp] theorem setTrack_resetLine (x : TrackUnit) : (b.setTrack x).resetLine = b.resetLine := rfl
@[simp] theorem setTrack_resetting (x : TrackUnit) : (b.setTrack x).resetting = b.resetting := rfl
@[simp] theorem setTrack_pos (x : TrackUnit) : (b.setTrack x).pos = b.pos := rfl
@[simp] theorem setTrack_intake (x : TrackUnit) : (b.setTrack x).intake = b.intake := rfl
@[simp] theorem setTrack_track (x : TrackUnit) : (b.setTrack x).track = x := rfl
@[simp] theorem setTrack_lists (x : TrackUnit) : (b.setTrack x).lists = b.lists := rfl
@[simp] theorem setTrack_ranks (x : TrackUnit) : (b.setTrack x).ranks = b.ranks := rfl
@[simp] theorem setTrack_settings (x : TrackUnit) : (b.setTrack x).settings = b.settings := rfl
@[simp] theorem setTrack_stations (x : TrackUnit) : (b.setTrack x).stations = b.stations := rfl
@[simp] theorem setTrack_chain (x : TrackUnit) : (b.setTrack x).chain = b.chain := rfl
@[simp] theorem setTrack_line (x : TrackUnit) : (b.setTrack x).line = b.line := rfl
@[simp] theorem setTrack_msg (x : TrackUnit) : (b.setTrack x).msg = b.msg := rfl
@[simp] theorem setTrack_store (x : TrackUnit) : (b.setTrack x).store = b.store := rfl
@[simp] theorem setTrack_maint (x : TrackUnit) : (b.setTrack x).maint = b.maint := rfl

@[simp] theorem setLists_clock (x : Four (List Entry)) : (b.setLists x).clock = b.clock := rfl
@[simp] theorem setLists_encA (x : Four (List Entry)) : (b.setLists x).encA = b.encA := rfl
@[simp] theorem setLists_encB (x : Four (List Entry)) : (b.setLists x).encB = b.encB := rfl
@[simp] theorem setLists_resetLine (x : Four (List Entry)) : (b.setLists x).resetLine = b.resetLine := rfl
@[simp] theorem setLists_resetting (x : Four (List Entry)) : (b.setLists x).resetting = b.resetting := rfl
@[simp] theorem setLists_pos (x : Four (List Entry)) : (b.setLists x).pos = b.pos := rfl
@[simp] theorem setLists_intake (x : Four (List Entry)) : (b.setLists x).intake = b.intake := rfl
@[simp] theorem setLists_track (x : Four (List Entry)) : (b.setLists x).track = b.track := rfl
@[simp] theorem setLists_lists (x : Four (List Entry)) : (b.setLists x).lists = x := rfl
@[simp] theorem setLists_ranks (x : Four (List Entry)) : (b.setLists x).ranks = b.ranks := rfl
@[simp] theorem setLists_settings (x : Four (List Entry)) : (b.setLists x).settings = b.settings := rfl
@[simp] theorem setLists_stations (x : Four (List Entry)) : (b.setLists x).stations = b.stations := rfl
@[simp] theorem setLists_chain (x : Four (List Entry)) : (b.setLists x).chain = b.chain := rfl
@[simp] theorem setLists_line (x : Four (List Entry)) : (b.setLists x).line = b.line := rfl
@[simp] theorem setLists_msg (x : Four (List Entry)) : (b.setLists x).msg = b.msg := rfl
@[simp] theorem setLists_store (x : Four (List Entry)) : (b.setLists x).store = b.store := rfl
@[simp] theorem setLists_maint (x : Four (List Entry)) : (b.setLists x).maint = b.maint := rfl

@[simp] theorem setRanks_clock (x : Four Nat) : (b.setRanks x).clock = b.clock := rfl
@[simp] theorem setRanks_encA (x : Four Nat) : (b.setRanks x).encA = b.encA := rfl
@[simp] theorem setRanks_encB (x : Four Nat) : (b.setRanks x).encB = b.encB := rfl
@[simp] theorem setRanks_resetLine (x : Four Nat) : (b.setRanks x).resetLine = b.resetLine := rfl
@[simp] theorem setRanks_resetting (x : Four Nat) : (b.setRanks x).resetting = b.resetting := rfl
@[simp] theorem setRanks_pos (x : Four Nat) : (b.setRanks x).pos = b.pos := rfl
@[simp] theorem setRanks_intake (x : Four Nat) : (b.setRanks x).intake = b.intake := rfl
@[simp] theorem setRanks_track (x : Four Nat) : (b.setRanks x).track = b.track := rfl
@[simp] theorem setRanks_lists (x : Four Nat) : (b.setRanks x).lists = b.lists := rfl
@[simp] theorem setRanks_ranks (x : Four Nat) : (b.setRanks x).ranks = x := rfl
@[simp] theorem setRanks_settings (x : Four Nat) : (b.setRanks x).settings = b.settings := rfl
@[simp] theorem setRanks_stations (x : Four Nat) : (b.setRanks x).stations = b.stations := rfl
@[simp] theorem setRanks_chain (x : Four Nat) : (b.setRanks x).chain = b.chain := rfl
@[simp] theorem setRanks_line (x : Four Nat) : (b.setRanks x).line = b.line := rfl
@[simp] theorem setRanks_msg (x : Four Nat) : (b.setRanks x).msg = b.msg := rfl
@[simp] theorem setRanks_store (x : Four Nat) : (b.setRanks x).store = b.store := rfl
@[simp] theorem setRanks_maint (x : Four Nat) : (b.setRanks x).maint = b.maint := rfl

@[simp] theorem setSettings_clock (x : Settings) : (b.setSettings x).clock = b.clock := rfl
@[simp] theorem setSettings_encA (x : Settings) : (b.setSettings x).encA = b.encA := rfl
@[simp] theorem setSettings_encB (x : Settings) : (b.setSettings x).encB = b.encB := rfl
@[simp] theorem setSettings_resetLine (x : Settings) : (b.setSettings x).resetLine = b.resetLine := rfl
@[simp] theorem setSettings_resetting (x : Settings) : (b.setSettings x).resetting = b.resetting := rfl
@[simp] theorem setSettings_pos (x : Settings) : (b.setSettings x).pos = b.pos := rfl
@[simp] theorem setSettings_intake (x : Settings) : (b.setSettings x).intake = b.intake := rfl
@[simp] theorem setSettings_track (x : Settings) : (b.setSettings x).track = b.track := rfl
@[simp] theorem setSettings_lists (x : Settings) : (b.setSettings x).lists = b.lists := rfl
@[simp] theorem setSettings_ranks (x : Settings) : (b.setSettings x).ranks = b.ranks := rfl
@[simp] theorem setSettings_settings (x : Settings) : (b.setSettings x).settings = x := rfl
@[simp] theorem setSettings_stations (x : Settings) : (b.setSettings x).stations = b.stations := rfl
@[simp] theorem setSettings_chain (x : Settings) : (b.setSettings x).chain = b.chain := rfl
@[simp] theorem setSettings_line (x : Settings) : (b.setSettings x).line = b.line := rfl
@[simp] theorem setSettings_msg (x : Settings) : (b.setSettings x).msg = b.msg := rfl
@[simp] theorem setSettings_store (x : Settings) : (b.setSettings x).store = b.store := rfl
@[simp] theorem setSettings_maint (x : Settings) : (b.setSettings x).maint = b.maint := rfl

@[simp] theorem setStations_clock (x : Four Station) : (b.setStations x).clock = b.clock := rfl
@[simp] theorem setStations_encA (x : Four Station) : (b.setStations x).encA = b.encA := rfl
@[simp] theorem setStations_encB (x : Four Station) : (b.setStations x).encB = b.encB := rfl
@[simp] theorem setStations_resetLine (x : Four Station) : (b.setStations x).resetLine = b.resetLine := rfl
@[simp] theorem setStations_resetting (x : Four Station) : (b.setStations x).resetting = b.resetting := rfl
@[simp] theorem setStations_pos (x : Four Station) : (b.setStations x).pos = b.pos := rfl
@[simp] theorem setStations_intake (x : Four Station) : (b.setStations x).intake = b.intake := rfl
@[simp] theorem setStations_track (x : Four Station) : (b.setStations x).track = b.track := rfl
@[simp] theorem setStations_lists (x : Four Station) : (b.setStations x).lists = b.lists := rfl
@[simp] theorem setStations_ranks (x : Four Station) : (b.setStations x).ranks = b.ranks := rfl
@[simp] theorem setStations_settings (x : Four Station) : (b.setStations x).settings = b.settings := rfl
@[simp] theorem setStations_stations (x : Four Station) : (b.setStations x).stations = x := rfl
@[simp] theorem setStations_chain (x : Four Station) : (b.setStations x).chain = b.chain := rfl
@[simp] theorem setStations_line (x : Four Station) : (b.setStations x).line = b.line := rfl
@[simp] theorem setStations_msg (x : Four Station) : (b.setStations x).msg = b.msg := rfl
@[simp] theorem setStations_store (x : Four Station) : (b.setStations x).store = b.store := rfl
@[simp] theorem setStations_maint (x : Four Station) : (b.setStations x).maint = b.maint := rfl

@[simp] theorem setChain_clock (x : ChainUnit) : (b.setChain x).clock = b.clock := rfl
@[simp] theorem setChain_encA (x : ChainUnit) : (b.setChain x).encA = b.encA := rfl
@[simp] theorem setChain_encB (x : ChainUnit) : (b.setChain x).encB = b.encB := rfl
@[simp] theorem setChain_resetLine (x : ChainUnit) : (b.setChain x).resetLine = b.resetLine := rfl
@[simp] theorem setChain_resetting (x : ChainUnit) : (b.setChain x).resetting = b.resetting := rfl
@[simp] theorem setChain_pos (x : ChainUnit) : (b.setChain x).pos = b.pos := rfl
@[simp] theorem setChain_intake (x : ChainUnit) : (b.setChain x).intake = b.intake := rfl
@[simp] theorem setChain_track (x : ChainUnit) : (b.setChain x).track = b.track := rfl
@[simp] theorem setChain_lists (x : ChainUnit) : (b.setChain x).lists = b.lists := rfl
@[simp] theorem setChain_ranks (x : ChainUnit) : (b.setChain x).ranks = b.ranks := rfl
@[simp] theorem setChain_settings (x : ChainUnit) : (b.setChain x).settings = b.settings := rfl
@[simp] theorem setChain_stations (x : ChainUnit) : (b.setChain x).stations = b.stations := rfl
@[simp] theorem setChain_chain (x : ChainUnit) : (b.setChain x).chain = x := rfl
@[simp] theorem setChain_line (x : ChainUnit) : (b.setChain x).line = b.line := rfl
@[simp] theorem setChain_msg (x : ChainUnit) : (b.setChain x).msg = b.msg := rfl
@[simp] theorem setChain_store (x : ChainUnit) : (b.setChain x).store = b.store := rfl
@[simp] theorem setChain_maint (x : ChainUnit) : (b.setChain x).maint = b.maint := rfl

@[simp] theorem setLine_clock (x : LineControl) : (b.setLine x).clock = b.clock := rfl
@[simp] theorem setLine_encA (x : LineControl) : (b.setLine x).encA = b.encA := rfl
@[simp] theorem setLine_encB (x : LineControl) : (b.setLine x).encB = b.encB := rfl
@[simp] theorem setLine_resetLine (x : LineControl) : (b.setLine x).resetLine = b.resetLine := rfl
@[simp] theorem setLine_resetting (x : LineControl) : (b.setLine x).resetting = b.resetting := rfl
@[simp] theorem setLine_pos (x : LineControl) : (b.setLine x).pos = b.pos := rfl
@[simp] theorem setLine_intake (x : LineControl) : (b.setLine x).intake = b.intake := rfl
@[simp] theorem setLine_track (x : LineControl) : (b.setLine x).track = b.track := rfl
@[simp] theorem setLine_lists (x : LineControl) : (b.setLine x).lists = b.lists := rfl
@[simp] theorem setLine_ranks (x : LineControl) : (b.setLine x).ranks = b.ranks := rfl
@[simp] theorem setLine_settings (x : LineControl) : (b.setLine x).settings = b.settings := rfl
@[simp] theorem setLine_stations (x : LineControl) : (b.setLine x).stations = b.stations := rfl
@[simp] theorem setLine_chain (x : LineControl) : (b.setLine x).chain = b.chain := rfl
@[simp] theorem setLine_line (x : LineControl) : (b.setLine x).line = x := rfl
@[simp] theorem setLine_msg (x : LineControl) : (b.setLine x).msg = b.msg := rfl
@[simp] theorem setLine_store (x : LineControl) : (b.setLine x).store = b.store := rfl
@[simp] theorem setLine_maint (x : LineControl) : (b.setLine x).maint = b.maint := rfl

@[simp] theorem setMsg_clock (x : MessageUnit) : (b.setMsg x).clock = b.clock := rfl
@[simp] theorem setMsg_encA (x : MessageUnit) : (b.setMsg x).encA = b.encA := rfl
@[simp] theorem setMsg_encB (x : MessageUnit) : (b.setMsg x).encB = b.encB := rfl
@[simp] theorem setMsg_resetLine (x : MessageUnit) : (b.setMsg x).resetLine = b.resetLine := rfl
@[simp] theorem setMsg_resetting (x : MessageUnit) : (b.setMsg x).resetting = b.resetting := rfl
@[simp] theorem setMsg_pos (x : MessageUnit) : (b.setMsg x).pos = b.pos := rfl
@[simp] theorem setMsg_intake (x : MessageUnit) : (b.setMsg x).intake = b.intake := rfl
@[simp] theorem setMsg_track (x : MessageUnit) : (b.setMsg x).track = b.track := rfl
@[simp] theorem setMsg_lists (x : MessageUnit) : (b.setMsg x).lists = b.lists := rfl
@[simp] theorem setMsg_ranks (x : MessageUnit) : (b.setMsg x).ranks = b.ranks := rfl
@[simp] theorem setMsg_settings (x : MessageUnit) : (b.setMsg x).settings = b.settings := rfl
@[simp] theorem setMsg_stations (x : MessageUnit) : (b.setMsg x).stations = b.stations := rfl
@[simp] theorem setMsg_chain (x : MessageUnit) : (b.setMsg x).chain = b.chain := rfl
@[simp] theorem setMsg_line (x : MessageUnit) : (b.setMsg x).line = b.line := rfl
@[simp] theorem setMsg_msg (x : MessageUnit) : (b.setMsg x).msg = x := rfl
@[simp] theorem setMsg_store (x : MessageUnit) : (b.setMsg x).store = b.store := rfl
@[simp] theorem setMsg_maint (x : MessageUnit) : (b.setMsg x).maint = b.maint := rfl

@[simp] theorem setStore_clock (x : SettingsStore) : (b.setStore x).clock = b.clock := rfl
@[simp] theorem setStore_encA (x : SettingsStore) : (b.setStore x).encA = b.encA := rfl
@[simp] theorem setStore_encB (x : SettingsStore) : (b.setStore x).encB = b.encB := rfl
@[simp] theorem setStore_resetLine (x : SettingsStore) : (b.setStore x).resetLine = b.resetLine := rfl
@[simp] theorem setStore_resetting (x : SettingsStore) : (b.setStore x).resetting = b.resetting := rfl
@[simp] theorem setStore_pos (x : SettingsStore) : (b.setStore x).pos = b.pos := rfl
@[simp] theorem setStore_intake (x : SettingsStore) : (b.setStore x).intake = b.intake := rfl
@[simp] theorem setStore_track (x : SettingsStore) : (b.setStore x).track = b.track := rfl
@[simp] theorem setStore_lists (x : SettingsStore) : (b.setStore x).lists = b.lists := rfl
@[simp] theorem setStore_ranks (x : SettingsStore) : (b.setStore x).ranks = b.ranks := rfl
@[simp] theorem setStore_settings (x : SettingsStore) : (b.setStore x).settings = b.settings := rfl
@[simp] theorem setStore_stations (x : SettingsStore) : (b.setStore x).stations = b.stations := rfl
@[simp] theorem setStore_chain (x : SettingsStore) : (b.setStore x).chain = b.chain := rfl
@[simp] theorem setStore_line (x : SettingsStore) : (b.setStore x).line = b.line := rfl
@[simp] theorem setStore_msg (x : SettingsStore) : (b.setStore x).msg = b.msg := rfl
@[simp] theorem setStore_store (x : SettingsStore) : (b.setStore x).store = x := rfl
@[simp] theorem setStore_maint (x : SettingsStore) : (b.setStore x).maint = b.maint := rfl

@[simp] theorem setMaint_clock (x : Sequencer) : (b.setMaint x).clock = b.clock := rfl
@[simp] theorem setMaint_encA (x : Sequencer) : (b.setMaint x).encA = b.encA := rfl
@[simp] theorem setMaint_encB (x : Sequencer) : (b.setMaint x).encB = b.encB := rfl
@[simp] theorem setMaint_resetLine (x : Sequencer) : (b.setMaint x).resetLine = b.resetLine := rfl
@[simp] theorem setMaint_resetting (x : Sequencer) : (b.setMaint x).resetting = b.resetting := rfl
@[simp] theorem setMaint_pos (x : Sequencer) : (b.setMaint x).pos = b.pos := rfl
@[simp] theorem setMaint_intake (x : Sequencer) : (b.setMaint x).intake = b.intake := rfl
@[simp] theorem setMaint_track (x : Sequencer) : (b.setMaint x).track = b.track := rfl
@[simp] theorem setMaint_lists (x : Sequencer) : (b.setMaint x).lists = b.lists := rfl
@[simp] theorem setMaint_ranks (x : Sequencer) : (b.setMaint x).ranks = b.ranks := rfl
@[simp] theorem setMaint_settings (x : Sequencer) : (b.setMaint x).settings = b.settings := rfl
@[simp] theorem setMaint_stations (x : Sequencer) : (b.setMaint x).stations = b.stations := rfl
@[simp] theorem setMaint_chain (x : Sequencer) : (b.setMaint x).chain = b.chain := rfl
@[simp] theorem setMaint_line (x : Sequencer) : (b.setMaint x).line = b.line := rfl
@[simp] theorem setMaint_msg (x : Sequencer) : (b.setMaint x).msg = b.msg := rfl
@[simp] theorem setMaint_store (x : Sequencer) : (b.setMaint x).store = b.store := rfl
@[simp] theorem setMaint_maint (x : Sequencer) : (b.setMaint x).maint = x := rfl

@[simp] theorem setEncoder_clock (x y : Bool) : (b.setEncoder x y).clock = b.clock := rfl
@[simp] theorem setEncoder_encA (x y : Bool) : (b.setEncoder x y).encA = x := rfl
@[simp] theorem setEncoder_encB (x y : Bool) : (b.setEncoder x y).encB = y := rfl
@[simp] theorem setEncoder_resetLine (x y : Bool) : (b.setEncoder x y).resetLine = b.resetLine := rfl
@[simp] theorem setEncoder_resetting (x y : Bool) : (b.setEncoder x y).resetting = b.resetting := rfl
@[simp] theorem setEncoder_pos (x y : Bool) : (b.setEncoder x y).pos = b.pos := rfl
@[simp] theorem setEncoder_intake (x y : Bool) : (b.setEncoder x y).intake = b.intake := rfl
@[simp] theorem setEncoder_track (x y : Bool) : (b.setEncoder x y).track = b.track := rfl
@[simp] theorem setEncoder_lists (x y : Bool) : (b.setEncoder x y).lists = b.lists := rfl
@[simp] theorem setEncoder_ranks (x y : Bool) : (b.setEncoder x y).ranks = b.ranks := rfl
@[simp] theorem setEncoder_settings (x y : Bool) : (b.setEncoder x y).settings = b.settings := rfl
@[simp] theorem setEncoder_stations (x y : Bool) : (b.setEncoder x y).stations = b.stations := rfl
@[simp] theorem setEncoder_chain (x y : Bool) : (b.setEncoder x y).chain = b.chain := rfl
@[simp] theorem setEncoder_line (x y : Bool) : (b.setEncoder x y).line = b.line := rfl
@[simp] theorem setEncoder_msg (x y : Bool) : (b.setEncoder x y).msg = b.msg := rfl
@[simp] theorem setEncoder_store (x y : Bool) : (b.setEncoder x y).store = b.store := rfl
@[simp] theorem setEncoder_maint (x y : Bool) : (b.setEncoder x y).maint = b.maint := rfl

@[simp] theorem setStation_clock (st : StationId) (x : Station) : (b.setStation st x).clock = b.clock := rfl
@[simp] theorem setStation_encA (st : StationId) (x : Station) : (b.setStation st x).encA = b.encA := rfl
@[simp] theorem setStation_encB (st : StationId) (x : Station) : (b.setStation st x).encB = b.encB := rfl
@[simp] theorem setStation_resetLine (st : StationId) (x : Station) : (b.setStation st x).resetLine = b.resetLine := rfl
@[simp] theorem setStation_resetting (st : StationId) (x : Station) : (b.setStation st x).resetting = b.resetting := rfl
@[simp] theorem setStation_pos (st : StationId) (x : Station) : (b.setStation st x).pos = b.pos := rfl
@[simp] theorem setStation_intake (st : StationId) (x : Station) : (b.setStation st x).intake = b.intake := rfl
@[simp] theorem setStation_track (st : StationId) (x : Station) : (b.setStation st x).track = b.track := rfl
@[simp] theorem setStation_lists (st : StationId) (x : Station) : (b.setStation st x).lists = b.lists := rfl
@[simp] theorem setStation_ranks (st : StationId) (x : Station) : (b.setStation st x).ranks = b.ranks := rfl
@[simp] theorem setStation_settings (st : StationId) (x : Station) : (b.setStation st x).settings = b.settings := rfl
@[simp] theorem setStation_stations (st : StationId) (x : Station) : (b.setStation st x).stations = b.stations.set st x := rfl
@[simp] theorem setStation_chain (st : StationId) (x : Station) : (b.setStation st x).chain = b.chain := rfl
@[simp] theorem setStation_line (st : StationId) (x : Station) : (b.setStation st x).line = b.line := rfl
@[simp] theorem setStation_msg (st : StationId) (x : Station) : (b.setStation st x).msg = b.msg := rfl
@[simp] theorem setStation_store (st : StationId) (x : Station) : (b.setStation st x).store = b.store := rfl
@[simp] theorem setStation_maint (st : StationId) (x : Station) : (b.setStation st x).maint = b.maint := rfl

@[simp] theorem setList_clock (st : StationId) (x : List Entry) : (b.setList st x).clock = b.clock := rfl
@[simp] theorem setList_encA (st : StationId) (x : List Entry) : (b.setList st x).encA = b.encA := rfl
@[simp] theorem setList_encB (st : StationId) (x : List Entry) : (b.setList st x).encB = b.encB := rfl
@[simp] theorem setList_resetLine (st : StationId) (x : List Entry) : (b.setList st x).resetLine = b.resetLine := rfl
@[simp] theorem setList_resetting (st : StationId) (x : List Entry) : (b.setList st x).resetting = b.resetting := rfl
@[simp] theorem setList_pos (st : StationId) (x : List Entry) : (b.setList st x).pos = b.pos := rfl
@[simp] theorem setList_intake (st : StationId) (x : List Entry) : (b.setList st x).intake = b.intake := rfl
@[simp] theorem setList_track (st : StationId) (x : List Entry) : (b.setList st x).track = b.track := rfl
@[simp] theorem setList_lists (st : StationId) (x : List Entry) : (b.setList st x).lists = b.lists.set st x := rfl
@[simp] theorem setList_ranks (st : StationId) (x : List Entry) : (b.setList st x).ranks = b.ranks := rfl
@[simp] theorem setList_settings (st : StationId) (x : List Entry) : (b.setList st x).settings = b.settings := rfl
@[simp] theorem setList_stations (st : StationId) (x : List Entry) : (b.setList st x).stations = b.stations := rfl
@[simp] theorem setList_chain (st : StationId) (x : List Entry) : (b.setList st x).chain = b.chain := rfl
@[simp] theorem setList_line (st : StationId) (x : List Entry) : (b.setList st x).line = b.line := rfl
@[simp] theorem setList_msg (st : StationId) (x : List Entry) : (b.setList st x).msg = b.msg := rfl
@[simp] theorem setList_store (st : StationId) (x : List Entry) : (b.setList st x).store = b.store := rfl
@[simp] theorem setList_maint (st : StationId) (x : List Entry) : (b.setList st x).maint = b.maint := rfl

@[simp] theorem setTable_clock (x : List ParticleRecord) : (b.setTable x).clock = b.clock := rfl
@[simp] theorem setTable_encA (x : List ParticleRecord) : (b.setTable x).encA = b.encA := rfl
@[simp] theorem setTable_encB (x : List ParticleRecord) : (b.setTable x).encB = b.encB := rfl
@[simp] theorem setTable_resetLine (x : List ParticleRecord) : (b.setTable x).resetLine = b.resetLine := rfl
@[simp] theorem setTable_resetting (x : List ParticleRecord) : (b.setTable x).resetting = b.resetting := rfl
@[simp] theorem setTable_pos (x : List ParticleRecord) : (b.setTable x).pos = b.pos := rfl
@[simp] theorem setTable_intake (x : List ParticleRecord) : (b.setTable x).intake = b.intake := rfl
@[simp] theorem setTable_track (x : List ParticleRecord) : (b.setTable x).track = { b.track with table := x } := rfl
@[simp] theorem setTable_lists (x : List ParticleRecord) : (b.setTable x).lists = b.lists := rfl
@[simp] theorem setTable_ranks (x : List ParticleRecord) : (b.setTable x).ranks = b.ranks := rfl
@[simp] theorem setTable_settings (x : List ParticleRecord) : (b.setTable x).settings = b.settings := rfl
@[simp] theorem setTable_stations (x : List ParticleRecord) : (b.setTable x).stations = b.stations := rfl
@[simp] theorem setTable_chain (x : List ParticleRecord) : (b.setTable x).chain = b.chain := rfl
@[simp] theorem setTable_line (x : List ParticleRecord) : (b.setTable x).line = b.line := rfl
@[simp] theorem setTable_msg (x : List ParticleRecord) : (b.setTable x).msg = b.msg := rfl
@[simp] theorem setTable_store (x : List ParticleRecord) : (b.setTable x).store = b.store := rfl
@[simp] theorem setTable_maint (x : List ParticleRecord) : (b.setTable x).maint = b.maint := rfl

end Sys2Proof.Machine.Block
end

