-- ==== Sys2Proof/Laws/Ops.lean ====
section
/-! SUPPORT. What the shared operations can do, said once: station tuples, events, the serving of a request, the
report queue and the transmitter, retirement and line changes. -/

namespace Sys2Proof

/-! ### One of each of the four stations -/

namespace Four

variable {α β : Type}

@[simp] theorem get_set (f : Four α) (i j : StationId) (a : α) :
    (f.set i a).get j = if j = i then a else f.get j := by
  fin_cases i <;> fin_cases j <;> rfl

@[simp] theorem get_map (g : α → β) (f : Four α) (i : StationId) : (f.map g).get i = g (f.get i) := by
  fin_cases i <;> rfl

@[simp] theorem get_all4 (a : α) (i : StationId) : (all4 a).get i = a := by fin_cases i <;> rfl

@[simp] theorem set_get (f : Four α) (i : StationId) : f.set i (f.get i) = f := by fin_cases i <;> rfl

@[simp] theorem set_set (f : Four α) (i : StationId) (a c : α) : (f.set i a).set i c = f.set i c := by
  fin_cases i <;> rfl

theorem ext_get {f g : Four α} (h : ∀ i, f.get i = g.get i) : f = g := by
  obtain ⟨a, b, c, d⟩ := f
  obtain ⟨a', b', c', d'⟩ := g
  have h0 := h 0
  have h1 := h 1
  have h2 := h 2
  have h3 := h 3
  simp only [get] at h0 h1 h2 h3
  subst h0 h1 h2 h3
  rfl

end Four

namespace Machine

/-! ### Factory defaults (R174) -/

/-- The factory defaults are one value. -/
theorem factoryDefaults_iff (x : Settings) : FactoryDefaults x ↔ x = Settings.factory := by
  constructor
  · rintro ⟨h1, h2, h3, h4, h5, h6, h7, h8, h9⟩
    rcases x with ⟨x1, x2, x3, x4, x5, x6, x7, x8, x9⟩
    simp only at h1 h2 h3 h4 h5 h6 h7 h8 h9
    have records : x4 = Four.all4 StationSettings.initial := Four.ext_get fun st => by
      rw [h4 st, Four.get_all4]
      rfl
    have floors : x8 = Four.all4 ⟨0, 15⟩ := Four.ext_get fun st => by rw [h8 st, Four.get_all4]
    subst_vars
    rfl
  · rintro rfl
    constructor <;> first
      | rfl
      | exact fun st => by fin_cases st <;> rfl

/-! ### Events -/

/-- An event that happens is its effect with the transmitter settled. -/
theorem event_next (s : State) (f : Block → Block) :
    event s f =
      .next { s with toBlock := (f s.toBlock).setMsg (startSending (f s.toBlock).clock (f s.toBlock).msg) } := rfl

/-- An event that is due happens. -/
theorem eventIf_due {due : Bool} (h : due = true) (s : State) (f : Block → Block) :
    eventIf due s f = event s f := by simp [eventIf, h]

/-- An event that is not due changes nothing. -/
theorem eventIf_undue {due : Bool} (h : due = false) (s : State) (f : Block → Block) :
    eventIf due s f = .next s := by simp [eventIf, h]

/-- Every event answers a next state and leaves the queue of commands alone. -/
theorem eventIf_answers (due : Bool) (s : State) (f : Block → Block) :
    ∃ t, eventIf due s f = .next t ∧ t.pending = s.pending := by
  cases due
  · exact ⟨s, rfl, rfl⟩
  · exact ⟨_, rfl, rfl⟩

/-! ### Serving -/

/-- A request that is next to be served and is one of this row's is served. -/
theorem serve_next {s : State} {kind : Byte} {p : List Byte} {rest : List Frame} (h : Serving s kind p rest)
    {mine : Frame → Bool} (hm : mine ⟨kind, p⟩ = true) (judge : List Byte → Block → Block × Option Reply) :
    serve mine judge s = event s (serveHead judge) := by
  apply eventIf_due
  simp [servable, Block.running, h.running, h.free, h.head, hm]

/-- A request whose reply is fixed at once: its judgement, with the reply in its place. -/
theorem serve_replied {s : State} {kind : Byte} {p : List Byte} {rest : List Frame} (h : Serving s kind p rest)
    {mine : Frame → Bool} (hm : mine ⟨kind, p⟩ = true) {judge : List Byte → Block → Block × Option Reply}
    {after : Block} {status : Status} {items : List Byte}
    (hj : judge p (s.toBlock.setMsg (s.msg.serving kind rest)) = (after, some ⟨status, items⟩)) :
    serve mine judge s =
      .next { s with toBlock := after.setMsg (after.msg.replying after.clock kind status items) } := by
  rw [serve_next h hm, event_next]
  have hh : serveHead judge s.toBlock = after.setMsg (placeReply kind ⟨status, items⟩ after.msg) := by
    simp only [serveHead, h.head]
    simp only [MessageUnit.serving] at hj
    simp [hj]
  rw [hh]
  rfl

/-- A refused request changes the message unit alone. -/
theorem serve_refused {s : State} {kind : Byte} {p : List Byte} {rest : List Frame} (h : Serving s kind p rest)
    {mine : Frame → Bool} (hm : mine ⟨kind, p⟩ = true) {judge : List Byte → Block → Block × Option Reply}
    {status : Status}
    (hj : judge p (s.toBlock.setMsg (s.msg.serving kind rest)) =
      refuse status (s.toBlock.setMsg (s.msg.serving kind rest))) :
    serve mine judge s = .next { s with msg := s.answered kind rest status [] } :=
  serve_replied h hm hj

/-! ### Checks before a request's own -/

variable {lengthOk : Block → Nat → Bool} {edit : List Byte → Bool}
  {own : List Byte → Block → Block × Option Reply} {p : List Byte} {b : Block}

theorem judged_startup (h : b.line.state = .startup) : judged lengthOk edit own p b = refuse .notReady b := by
  simp [judged, h]

theorem judged_length (hs : b.line.state ≠ .startup) (h : lengthOk b p.length = false) :
    judged lengthOk edit own p b = refuse .badArg b := by
  simp [judged, hs, h]

theorem judged_own (hs : b.line.state ≠ .startup) (h : lengthOk b p.length = true)
    (he : (if edit p then editBarred b else none) = none) : judged lengthOk edit own p b = own p b := by
  unfold judged
  rw [if_neg hs, h, he]
  rfl

theorem judged_barred (hs : b.line.state ≠ .startup) (h : lengthOk b p.length = true) (hp : edit p = true)
    {st : Status} (he : editBarred b = some st) : judged lengthOk edit own p b = refuse st b := by
  unfold judged
  rw [if_neg hs, h, hp, if_pos rfl, he]
  rfl

/-- No edit is barred while the lock and the busy check pass. -/
theorem editBarred_none {s : State} (h : EditsOpen s) (m : MessageUnit) : editBarred (s.toBlock.setMsg m) = none := by
  obtain ⟨hi, hl⟩ := h
  rcases hl with hl | ⟨hl, hk⟩
  · simp [editBarred, hl, hi]
  · simp [editBarred, hl, hk, hi]

/-- Two requests that judge the frame at the head alike are served alike. -/
theorem serve_congr {s : State} {kind : Byte} {p : List Byte} {rest : List Frame} (h : Serving s kind p rest)
    {mine : Frame → Bool} (hm : mine ⟨kind, p⟩ = true) {judge judge' : List Byte → Block → Block × Option Reply}
    (hj : judge p (s.toBlock.setMsg (s.msg.serving kind rest)) =
      judge' p (s.toBlock.setMsg (s.msg.serving kind rest))) :
    serve mine judge s = serve mine judge' s := by
  rw [serve_next h hm, serve_next h hm, event_next, event_next]
  have hh : serveHead judge s.toBlock = serveHead judge' s.toBlock := by
    simp only [MessageUnit.serving, Block.setMsg] at hj
    simp only [serveHead, h.head, Block.setMsg, hj]
  rw [hh]

/-- Past STARTUP a request of the right length that is no edit is judged by its own checks. -/
theorem serve_plain {s : State} {kind : Byte} {p : List Byte} {rest : List Frame} (h : Serving s kind p rest)
    {mine : Frame → Bool} (hm : mine ⟨kind, p⟩ = true) (hs : s.line.state ≠ .startup) {n : Nat} (hn : p.length = n)
    (own : List Byte → Block → Block × Option Reply) : serve mine (plainRequest n own) s = serve mine own s :=
  serve_congr h hm (judged_own (b := s.toBlock.setMsg _) hs (by simp [exactly, hn]) rfl)

/-- Past STARTUP an edit of the right length that lock and busy check pass is judged by its own checks. -/
theorem serve_edit {s : State} {kind : Byte} {p : List Byte} {rest : List Frame} (h : Serving s kind p rest)
    {mine : Frame → Bool} (hm : mine ⟨kind, p⟩ = true) (hs : s.line.state ≠ .startup) (he : EditsOpen s) {n : Nat}
    (hn : p.length = n) (own : List Byte → Block → Block × Option Reply) :
    serve mine (editRequest n own) s = serve mine own s :=
  serve_congr h hm (judged_own (b := s.toBlock.setMsg _) hs (by simp [exactly, hn]) (by simp [editBarred_none he]))

/-! ### Report queue -/

/-- A report changes reports, number, tallies and the place of a waiting reply alone. -/
theorem offerReport_frame (body : ReportBody) (m : MessageUnit) :
    (offerReport body m).receiver = m.receiver ∧ (offerReport body m).buffer = m.buffer ∧
      (offerReport body m).inHand = m.inHand ∧ (offerReport body m).sending = m.sending ∧
      (offerReport body m).pointer = m.pointer ∧
      (offerReport body m).nextReport = (m.nextReport + 1) % 65536 := by
  unfold offerReport
  dsimp only
  split
  · exact ⟨rfl, rfl, rfl, rfl, rfl, rfl⟩
  · split
    · exact ⟨rfl, rfl, rfl, rfl, rfl, rfl⟩
    · split <;> exact ⟨rfl, rfl, rfl, rfl, rfl, rfl⟩

theorem oldestResult_lt {l : List Report} {i : Nat} (h : oldestResult l = some i) : i < l.length := by
  induction l generalizing i with
  | nil => simp [oldestResult] at h
  | cons r l ih =>
    simp only [oldestResult] at h
    split at h
    · cases h
      simp
    · cases hr : oldestResult l with
      | none => simp [hr] at h
      | some j =>
        simp only [hr, Option.map_some, Option.some.injEq] at h
        have := ih hr
        simp only [List.length_cons]
        omega

/-- The report queue never holds more than 32 reports. -/
theorem offerReport_length (body : ReportBody) {m : MessageUnit} (h : m.reports.length ≤ 32) :
    (offerReport body m).reports.length ≤ 32 := by
  by_cases h1 : m.reports.length < Config.reportCapacity
  · rw [offerReport, if_pos h1]
    simp only [Config.reportCapacity] at h1
    simp only [List.length_append, List.length_cons, List.length_nil]
    omega
  · rw [offerReport, if_neg h1]
    by_cases h2 : body.isResult = true
    · rw [if_pos h2]
      exact h
    · rw [if_neg h2]
      cases hi : oldestResult m.reports with
      | none => exact h
      | some i =>
        have := oldestResult_lt hi
        simp only [List.length_append, List.length_eraseIdx, List.length_cons, List.length_nil, this, if_true]
        omega

/-- The transmitter changes what it sends, the reply, the reports and their tallies alone. -/
theorem startSending_frame (now : Nat) (m : MessageUnit) :
    (startSending now m).receiver = m.receiver ∧ (startSending now m).buffer = m.buffer ∧
      (startSending now m).inHand = m.inHand ∧ (startSending now m).pointer = m.pointer ∧
      (startSending now m).nextReport = m.nextReport := by
  have hr : ∀ m : MessageUnit, (sendReport now m).receiver = m.receiver ∧ (sendReport now m).buffer = m.buffer ∧
      (sendReport now m).inHand = m.inHand ∧ (sendReport now m).pointer = m.pointer ∧
      (sendReport now m).nextReport = m.nextReport := by
    intro m
    unfold sendReport
    split <;> exact ⟨rfl, rfl, rfl, rfl, rfl⟩
  unfold startSending
  split
  · exact ⟨rfl, rfl, rfl, rfl, rfl⟩
  · split
    · split
      · exact ⟨rfl, rfl, rfl, rfl, rfl⟩
      · exact hr m
    · exact hr m

theorem startSending_length (now : Nat) {m : MessageUnit} (h : m.reports.length ≤ 32) :
    (startSending now m).reports.length ≤ 32 := by
  have hr : (sendReport now m).reports.length ≤ 32 := by
    unfold sendReport
    split
    · exact h
    · rename_i r rest hm
      rw [hm] at h
      simp only [List.length_cons] at h
      dsimp only
      omega
  unfold startSending
  split
  · exact h
  · split
    · split
      · exact h
      · exact hr
    · exact hr

/-- A busy transmitter takes nothing. -/
theorem startSending_busy {now : Nat} {m : MessageUnit} {x : Sending} (h : m.sending = some x) :
    startSending now m = m := by simp [startSending, h]

/-! ### Retirement and line changes: what they leave alone -/

/-- The fields retirement, line changes and reports leave alone. -/
structure Block.SameBut (b c : Block) : Prop where
  clock : c.clock = b.clock
  encA : c.encA = b.encA
  encB : c.encB = b.encB
  resetLine : c.resetLine = b.resetLine
  resetting : c.resetting = b.resetting
  pos : c.pos = b.pos
  intake : c.intake = b.intake
  lists : c.lists = b.lists
  ranks : c.ranks = b.ranks
  settings : c.settings = b.settings
  stations : c.stations = b.stations
  chain : c.chain = b.chain
  store : c.store = b.store
  maint : c.maint = b.maint

theorem report_same (body : ReportBody) (b : Block) : b.SameBut (b.report body) := by
  constructor <;> rfl

theorem retireFinished_same (b : Block) : b.SameBut (retireFinished b) := by
  constructor <;> rfl

theorem retireFinished_line (b : Block) : (retireFinished b).line = b.line := rfl

theorem retireFinished_table (b : Block) :
    (retireFinished b).track.table = b.track.table.filter fun r => !r.finished := rfl

/-- With no record finished, nothing retires. -/
theorem retireFinished_none {b : Block} (h : ∀ r ∈ b.track.table, r.finished = false) : retireFinished b = b := by
  have h1 : b.track.table.filter ParticleRecord.finished = [] := by
    rw [List.filter_eq_nil_iff]
    intro r hr
    simp [h r hr]
  have h2 : (b.track.table.filter fun r => !r.finished) = b.track.table := by
    rw [List.filter_eq_self]
    intro r hr
    simp [h r hr]
  unfold retireFinished
  simp only [h1, h2, List.foldl_nil]
  rfl

theorem enterLine_same (new : LineState) (cause : LineCause) (b : Block) : b.SameBut (enterLine new cause b) := by
  constructor <;> rfl

theorem enterLine_line (new : LineState) (cause : LineCause) (b : Block) :
    (enterLine new cause b).line = { b.line with state := new } := rfl

theorem enterLine_track (new : LineState) (cause : LineCause) (b : Block) :
    (enterLine new cause b).track = b.track := rfl

/-- The end of a drain changes the line and the message unit alone. -/
theorem drainDone_same (b : Block) : b.SameBut (drainDone b) := by
  unfold drainDone
  split <;> constructor <;> rfl

theorem drainDone_track (b : Block) : (drainDone b).track = b.track := by
  unfold drainDone
  split <;> rfl

/-- Outside DRAINING, or with records left, no drain ends. -/
theorem drainDone_not {b : Block} (h : b.line.state ≠ .draining ∨ b.track.table ≠ []) : drainDone b = b := by
  unfold drainDone
  rw [if_neg]
  rintro ⟨h1, h2⟩
  rcases h with h | h
  · exact h h1
  · exact h h2

/-! ### One step -/

theorem step_front (c : Instr) (rest : List Instr) (s : State) :
    step { s with pending := c :: rest } = exec c { s with pending := rest } := rfl

theorem step_idle {s : State} (h : s.pending = []) : step s = .next { s with toBlock := s.toBlock.tick } := by
  simp [step, h]

end Machine

end Sys2Proof
end

