-- ==== Sys2Proof/Laws/Stations.lean ====
section
/-! SUPPORT. What a station's leaving ARMED, a stop of the line and a line fault can do, said once. -/

namespace Sys2Proof.Machine

/-! ### A station leaves ARMED -/

/-- The parts of the state no change of a station reaches. -/
structure Block.SameOutside (b c : Block) : Prop where
  clock : c.clock = b.clock
  encA : c.encA = b.encA
  encB : c.encB = b.encB
  resetLine : c.resetLine = b.resetLine
  resetting : c.resetting = b.resetting
  pos : c.pos = b.pos
  intake : c.intake = b.intake
  ranks : c.ranks = b.ranks
  chain : c.chain = b.chain
  line : c.line = b.line
  store : c.store = b.store

theorem Block.SameOutside.trans {a b c : Block} (h : a.SameOutside b) (k : b.SameOutside c) : a.SameOutside c :=
  ⟨k.clock.trans h.clock, k.encA.trans h.encA, k.encB.trans h.encB, k.resetLine.trans h.resetLine,
    k.resetting.trans h.resetting, k.pos.trans h.pos, k.intake.trans h.intake, k.ranks.trans h.ranks,
    k.chain.trans h.chain, k.line.trans h.line, k.store.trans h.store⟩

/-- The hold flag is set in every entry that names the station. -/
def holdFor (st : StationId) (e : RouteEntry) : RouteEntry := if e.stations.get st then { e with hold := true } else e

/-- A block with another sequencer and another message unit. -/
def Block.withMaint (b : Block) (q : Sequencer) (m : MessageUnit) : Block := (b.setMaint q).setMsg m

/-- The end of maintenance on a station touches the sequencer and the message unit alone. -/
theorem abandonMaintenance_eq (st : StationId) (b : Block) :
    ∃ q m, abandonMaintenance st b = b.withMaint q m := by
  unfold abandonMaintenance
  split
  · split
    · exact ⟨_, _, rfl⟩
    · exact ⟨b.maint, b.msg, rfl⟩
  · split
    · exact ⟨_, _, rfl⟩
    · exact ⟨b.maint, b.msg, rfl⟩
  · split
    · exact ⟨_, _, rfl⟩
    · exact ⟨b.maint, b.msg, rfl⟩
  · exact ⟨b.maint, b.msg, rfl⟩

/-- Everything a station's leaving ARMED does but to table, tallies, sequencer and message unit. -/
theorem leaveArmed_spec (st : StationId) (new : StationState) (cause : StationCause) (b : Block) :
    b.SameOutside (leaveArmed st new cause b) ∧ (leaveArmed st new cause b).lists = b.lists.set st [] ∧
      (leaveArmed st new cause b).settings = { b.settings with routes := b.settings.routes.map (holdFor st) } ∧
      (leaveArmed st new cause b).stations = b.stations.set st ((b.station st).left new) := by
  have hr : ∃ track m, (if new = .faulted then withdrawStation st b else retireFinished (withdrawStation st b)) =
      ((b.setList st []).setTrack track).setMsg m := by
    split
    · exact ⟨(withdrawStation st b).track, b.msg, rfl⟩
    · exact ⟨_, _, rfl⟩
  obtain ⟨track, m, hr⟩ := hr
  obtain ⟨q, m2, ha⟩ := abandonMaintenance_eq st (setHolds st (((b.setList st []).setTrack track).setMsg m))
  unfold leaveArmed
  dsimp only
  rw [hr, ha]
  refine ⟨⟨?_, ?_, ?_, ?_, ?_, ?_, ?_, ?_, ?_, ?_, ?_⟩, ?_, ?_, ?_⟩ <;>
    simp [stationNotice, Block.report, Block.withMaint, setHolds, Block.station, holdFor]

/-! ### Disarming -/

theorem disarmStation_outside (cause : StationCause) (b : Block) (st : StationId) :
    b.SameOutside (disarmStation cause b st) := by
  unfold disarmStation
  split
  · exact (leaveArmed_spec _ _ _ _).1
  · constructor <;> simp [becomeDisarmed, stationNotice, Block.report]
  · constructor <;> simp [becomeDisarmed, stationNotice, Block.report]
  · constructor <;> rfl

/-- The station as DISARM, HALT and FAULT leave it. -/
theorem disarmStation_station (cause : StationCause) (b : Block) (st : StationId) :
    ((disarmStation cause b st).stations.get st).state = .disarmed ∧
      ((b.stations.get st).state ≠ .disarmed ∨ (b.stations.get st).enable = false →
        ((disarmStation cause b st).stations.get st).enable = false) := by
  unfold disarmStation
  split
  · rw [(leaveArmed_spec _ _ _ _).2.2.2]
    simp [Station.left]
  · simp [becomeDisarmed, stationNotice, Block.report, Block.setMsg, Block.setStation, Block.setStations]
  · simp [becomeDisarmed, stationNotice, Block.report, Block.setMsg, Block.setStation, Block.setStations]
  · rename_i h
    simp only [Block.station] at h
    simp [h]

/-- No other station is touched. -/
theorem disarmStation_other (cause : StationCause) (b : Block) {st other : StationId} (h : other ≠ st) :
    (disarmStation cause b st).stations.get other = b.stations.get other := by
  unfold disarmStation
  split
  · rw [(leaveArmed_spec _ _ _ _).2.2.2]
    simp [h]
  · simp [becomeDisarmed, stationNotice, Block.report, Block.setMsg, Block.setStation, Block.setStations, h]
  · simp [becomeDisarmed, stationNotice, Block.report, Block.setMsg, Block.setStation, Block.setStations, h]
  · rfl

/-- Holds are set where the station was ARMED, and nowhere else. -/
theorem disarmStation_settings (cause : StationCause) (b : Block) (st : StationId) :
    (disarmStation cause b st).settings =
      if (b.stations.get st).state = .armed then
        { b.settings with routes := b.settings.routes.map (holdFor st) }
      else b.settings := by
  unfold disarmStation
  split
  · rename_i h
    simp only [Block.station] at h
    rw [(leaveArmed_spec _ _ _ _).2.2.1, if_pos h]
  · rename_i h
    simp only [Block.station] at h
    simp [h, becomeDisarmed, stationNotice, Block.report, Block.setMsg, Block.setStation, Block.setStations]
  · rename_i h
    simp only [Block.station] at h
    simp [h, becomeDisarmed, stationNotice, Block.report, Block.setMsg, Block.setStation, Block.setStations]
  · rename_i h
    simp only [Block.station] at h
    simp [h]

/-! ### Stopping the line -/

/-- An aborted slot is FINAL. -/
theorem Slot.aborted_final (sl : Slot) : sl.aborted.state.isFinal = true := by
  unfold Slot.aborted
  split
  · assumption
  · rfl

theorem ParticleRecord.abort_finished (r : ParticleRecord) : r.abort.finished = true := by
  simp only [finished, abort, Four.map, Four.toList, List.all_cons, List.all_nil, Bool.and_true, Bool.and_eq_true]
  refine ⟨?_, ?_, ?_, ?_⟩ <;> (split <;> first
    | rfl
    | (rename_i sl h
       simp only [Option.map_eq_some_iff] at h
       obtain ⟨a, _, rfl⟩ := h
       exact Slot.aborted_final a))

/-- The flush empties the table and the lists and leaves the rest but for the message unit. -/
theorem flush_spec (b : Block) :
    b.SameOutside (flush b) ∧ (flush b).track.table = [] ∧ (flush b).lists = Four.all4 [] ∧
      (flush b).stations = b.stations ∧ (flush b).settings = b.settings ∧ (flush b).maint = b.maint := by
  refine ⟨by constructor <;> rfl, ?_, rfl, rfl, rfl, rfl⟩
  show List.filter _ (List.map _ _) = []
  rw [List.filter_eq_nil_iff]
  intro r hr
  simp only [List.mem_map] at hr
  obtain ⟨q, _, rfl⟩ := hr
  simp [ParticleRecord.abort_finished]

/-- Four holds in station order are one hold for any of the stations. -/
theorem hold_four (e : RouteEntry) (h : RouteEntry) (p : StationId → Prop) [DecidablePred p]
    (hh : h = { e with hold := true } := by rfl) :
    (let f (st : StationId) (x : RouteEntry) : RouteEntry :=
        if p st ∧ x.stations.get st = true then { x with hold := true } else x
     f 3 (f 2 (f 1 (f 0 e)))) = if ∃ st, p st ∧ e.stations.get st = true then h else e := by
  subst hh
  have ex : (∃ st, p st ∧ e.stations.get st = true) ↔
      (p 0 ∧ e.stations.get 0 = true) ∨ (p 1 ∧ e.stations.get 1 = true) ∨ (p 2 ∧ e.stations.get 2 = true) ∨
        (p 3 ∧ e.stations.get 3 = true) := by
    constructor
    · rintro ⟨st, h⟩
      fin_cases st
      · exact Or.inl h
      · exact Or.inr (Or.inl h)
      · exact Or.inr (Or.inr (Or.inl h))
      · exact Or.inr (Or.inr (Or.inr h))
    · rintro (h | h | h | h)
      · exact ⟨0, h⟩
      · exact ⟨1, h⟩
      · exact ⟨2, h⟩
      · exact ⟨3, h⟩
  dsimp only
  simp only [ex]
  by_cases h0 : p 0 ∧ e.stations.get 0 = true <;> by_cases h1 : p 1 ∧ e.stations.get 1 = true <;>
    by_cases h2 : p 2 ∧ e.stations.get 2 = true <;> by_cases h3 : p 3 ∧ e.stations.get 3 = true <;>
    simp only [h0, h1, h2, h3, if_true, if_false, and_self, or_self, or_true, or_false]

/-- What HALT and every fault do to the stations and the records. -/
theorem stopStations_spec (cause : StationCause) (b : Block)
    (he : ∀ st, (b.stations.get st).state = .disarmed → (b.stations.get st).enable = false) :
    b.SameOutside (stopStations cause b) ∧ (stopStations cause b).Stopped ∧
      (stopStations cause b).settings = b.heldSettings := by
  let b1 := disarmStation cause b 0
  let b2 := disarmStation cause b1 1
  let b3 := disarmStation cause b2 2
  let b4 := disarmStation cause b3 3
  have h4 : stopStations cause b = flush b4 := rfl
  obtain ⟨f1, f2, f3, f4, f5, _⟩ := flush_spec b4
  have o1 := disarmStation_outside cause b 0
  have o2 := disarmStation_outside cause b1 1
  have o3 := disarmStation_outside cause b2 2
  have o4 := disarmStation_outside cause b3 3
  have g1 : b1.stations.get 1 = b.stations.get 1 := disarmStation_other _ _ (by decide)
  have g2 : b2.stations.get 2 = b.stations.get 2 :=
    (disarmStation_other _ _ (by decide)).trans (disarmStation_other _ _ (by decide))
  have g3 : b3.stations.get 3 = b.stations.get 3 :=
    (disarmStation_other _ _ (by decide)).trans
      ((disarmStation_other _ _ (by decide)).trans (disarmStation_other _ _ (by decide)))
  have k0 : b4.stations.get 0 = b1.stations.get 0 :=
    (disarmStation_other _ _ (by decide)).trans
      ((disarmStation_other _ _ (by decide)).trans (disarmStation_other _ _ (by decide)))
  have k1 : b4.stations.get 1 = b2.stations.get 1 :=
    (disarmStation_other _ _ (by decide)).trans (disarmStation_other _ _ (by decide))
  have k2 : b4.stations.get 2 = b3.stations.get 2 := disarmStation_other _ _ (by decide)
  have d0 := disarmStation_station cause b 0
  have d1 := disarmStation_station cause b1 1
  have d2 := disarmStation_station cause b2 2
  have d3 := disarmStation_station cause b3 3
  have en : ∀ st, (b.stations.get st).state ≠ .disarmed ∨ (b.stations.get st).enable = false := by
    intro st
    by_cases h : (b.stations.get st).state = .disarmed
    · exact Or.inr (he st h)
    · exact Or.inl h
  rw [h4]
  refine ⟨(((o1.trans o2).trans o3).trans o4).trans f1, ⟨f2, ?_, ?_, ?_⟩, ?_⟩
  · intro st
    rw [f3]
    simp
  · intro st
    unfold Block.station
    rw [f4]
    fin_cases st
    · exact (congrArg Station.state k0).trans d0.1
    · exact (congrArg Station.state k1).trans d1.1
    · exact (congrArg Station.state k2).trans d2.1
    · exact d3.1
  · intro st
    unfold Block.station
    rw [f4]
    fin_cases st
    · exact (congrArg Station.enable k0).trans (d0.2 (en 0))
    · exact (congrArg Station.enable k1).trans (d1.2 (by rw [g1]; exact en 1))
    · exact (congrArg Station.enable k2).trans (d2.2 (by rw [g2]; exact en 2))
    · exact d3.2 (by rw [g3]; exact en 3)
  · rw [f5]
    have s1 := disarmStation_settings cause b 0
    have s2 := disarmStation_settings cause b1 1
    have s3 := disarmStation_settings cause b2 2
    have s4 := disarmStation_settings cause b3 3
    rw [g1] at s2
    rw [g2] at s3
    rw [g3] at s4
    change b4.settings = _
    change b1.settings = _ at s1
    change b2.settings = _ at s2
    change b3.settings = _ at s3
    change b4.settings = _ at s4
    have key : ∀ (x : Settings) (p : Prop) [Decidable p] (f : RouteEntry → RouteEntry),
        (if p then { x with routes := x.routes.map f } else x) =
          { x with routes := x.routes.map fun e => if p then f e else e } := by
      intro x p _ f
      split <;> simp
    rw [key] at s1 s2 s3 s4
    rw [s4, s3, s2, s1]
    simp only [List.map_map]
    congr 1
    apply List.map_congr_left
    intro e _
    have hold : ∀ (p : Prop) [Decidable p] (st : StationId) (e : RouteEntry),
        (if p then holdFor st e else e) = if p ∧ e.stations.get st = true then { e with hold := true } else e := by
      intro p _ st e
      unfold holdFor
      split_ifs <;> simp_all
    simp only [Function.comp_apply, hold]
    exact hold_four e _ (fun st => (b.stations.get st).state = .armed)

/-- A taken line fault: the line stops in FAULT with its cause, and the settings keep all but the holds. -/
theorem lineFault_spec (f : FaultCause) (b : Block) (ht : faultTaken f b.line.state = true)
    (he : ∀ st, (b.stations.get st).state = .disarmed → (b.stations.get st).enable = false) :
    (lineFault f b).line = { b.line with state := .fault, fault := f } ∧ (lineFault f b).Stopped ∧
      (lineFault f b).settings = b.heldSettings ∧ (lineFault f b).pos = b.pos ∧
      (lineFault f b).intake = b.intake ∧ (lineFault f b).ranks = b.ranks ∧ (lineFault f b).chain = b.chain ∧
      (lineFault f b).store = b.store ∧ (lineFault f b).clock = b.clock := by
  obtain ⟨o, ⟨s1, s2, s3, s4⟩, s5⟩ := stopStations_spec .fault b he
  have h : lineFault f b =
      enterLine .fault f.lineCause
        ((stopStations .fault b).setLine { (stopStations .fault b).line with fault := f }) := if_pos ht
  rw [h]
  generalize stopStations .fault b = c at o s1 s2 s3 s4 s5
  refine ⟨?_, ⟨?_, ?_, ?_, ?_⟩, ?_, ?_, ?_, ?_, ?_, ?_, ?_⟩
  · simp [enterLine, Block.report, o.line]
  · simpa [enterLine, Block.report] using s1
  · simpa [enterLine, Block.report] using s2
  · simpa [enterLine, Block.report, Block.station] using s3
  · simpa [enterLine, Block.report, Block.station] using s4
  all_goals simp [enterLine, Block.report, s5, o.pos, o.intake, o.ranks, o.chain, o.store, o.clock]

/-- A fault cause that is not taken changes nothing. -/
theorem lineFault_not {f : FaultCause} {b : Block} (h : faultTaken f b.line.state = false) : lineFault f b = b := by
  unfold lineFault
  rw [if_neg (by simp [h])]

end Sys2Proof.Machine
end

