-- ==== Sys2Proof/Laws/Records.lean ====
section
/-! SUPPORT. What the operations on records, lists and channels can do: lengths, tags, order, and the parts of the state
a commit, a crossing and a purge's turn leave alone. -/

namespace Sys2Proof.Machine

/-! ### Small helpers -/

@[simp] theorem modifyAt_length {α : Type} (f : α → α) (i : Nat) (l : List α) : (modifyAt f i l).length = l.length := by
  induction l generalizing i with
  | nil => cases i <;> rfl
  | cons a l ih => cases i <;> simp [modifyAt, ih]

theorem modifyAt_eq_set {α : Type} (f : α → α) {i : Nat} {l : List α} {a : α} (h : l[i]? = some a) :
    modifyAt f i l = l.set i (f a) := by
  induction l generalizing i with
  | nil => simp at h
  | cons x l ih =>
    cases i with
    | zero =>
      simp only [List.getElem?_cons_zero, Option.some.injEq] at h
      simp [modifyAt, h]
    | succ i =>
      simp only [List.getElem?_cons_succ] at h
      simp [modifyAt, ih h]

/-- A tally saturates. -/
theorem bump_le {t : Nat} (h : t ≤ Config.tallyMax) : bump t ≤ Config.tallyMax := by
  unfold bump
  split <;> omega

theorem stationOf_val {n : Nat} {st : StationId} (h : n = st.val) : stationOf n = some st := by simp [stationOf, h]

theorem stationOf_none {n : Nat} (h : 4 ≤ n) : stationOf n = none := by
  unfold stationOf
  rw [dif_neg (by omega)]

theorem stationOf_some {n : Nat} {st : StationId} (h : stationOf n = some st) : n = st.val := by
  unfold stationOf at h
  split at h
  · cases h
    rfl
  · exact absurd h (by simp)

/-! ### The track table -/

/-- A record is finished where each of its slots is FINAL (R42). -/
theorem ParticleRecord.finished_iff (r : ParticleRecord) :
    r.finished = true ↔ ∀ st sl, r.slots.get st = some sl → ∃ o, sl.state = .final o := by
  have final (sl : Slot) : sl.state.isFinal = true ↔ ∃ o, sl.state = .final o := by
    rcases sl with ⟨_ | _ | _ | _, _, _, _⟩ <;> simp [SlotState.isFinal]
  unfold ParticleRecord.finished
  simp only [List.all_eq_true]
  constructor
  · intro h st sl hs
    have member : some sl ∈ r.slots.toList := by
      rw [← hs]
      fin_cases st <;> simp [Four.toList, Four.get]
    exact (final sl).mp (h _ member)
  · intro h o ho
    cases o with
    | none => rfl
    | some sl =>
      refine (final sl).mpr ?_
      simp only [Four.toList, List.mem_cons, List.not_mem_nil, or_false] at ho
      rcases ho with e | e | e | e
      · exact h 0 sl e.symm
      · exact h 1 sl e.symm
      · exact h 2 sl e.symm
      · exact h 3 sl e.symm

theorem findRecord_some {tag : Nat} {t : List ParticleRecord} {r : ParticleRecord} (h : findRecord tag t = some r) :
    r ∈ t ∧ r.tag = tag :=
  ⟨List.mem_of_find?_eq_some h, by simpa using List.find?_some h⟩

theorem findRecord_none {tag : Nat} {t : List ParticleRecord} (h : findRecord tag t = none) :
    ∀ r ∈ t, r.tag ≠ tag := by
  intro r hr
  have := List.find?_eq_none.mp h r hr
  simpa using this

@[simp] theorem updateRecord_length (tag : Nat) (f : ParticleRecord → ParticleRecord) (t : List ParticleRecord) :
    (updateRecord tag f t).length = t.length := by simp [updateRecord]

/-- A change that keeps some value of a record keeps it all through the table: its tag, its position, its priority. -/
theorem updateRecord_map {α : Type} (g : ParticleRecord → α) {f : ParticleRecord → ParticleRecord}
    (h : ∀ r, g (f r) = g r) (tag : Nat) (t : List ParticleRecord) : (updateRecord tag f t).map g = t.map g := by
  simp only [updateRecord, List.map_map]
  apply List.map_congr_left
  intro r _
  simp only [Function.comp_apply]
  split
  · exact h r
  · rfl

theorem updateSlot_map {α : Type} (g : ParticleRecord → α) (st : StationId) (f : Slot → Slot)
    (h : ∀ r : ParticleRecord, g (r.updateSlot st f) = g r) (tag : Nat) (t : List ParticleRecord) :
    (updateSlot tag st f t).map g = t.map g := updateRecord_map g h tag t

/-- A record is placed, and nothing else changes. -/
theorem insertRecord_perm (r : ParticleRecord) (t : List ParticleRecord) : (insertRecord r t).Perm (r :: t) := by
  induction t with
  | nil => exact List.Perm.refl _
  | cons q l ih =>
    simp only [insertRecord]
    split
    · exact List.Perm.refl _
    · exact (List.Perm.cons q ih).trans (List.Perm.swap r q l)

/-- Belt order is kept (R35). -/
theorem insertRecord_order {r : ParticleRecord} {t : List ParticleRecord}
    (h : (t.map (·.position)).Pairwise (· ≤ ·)) : ((insertRecord r t).map (·.position)).Pairwise (· ≤ ·) := by
  induction t with
  | nil => simp [insertRecord]
  | cons q l ih =>
    simp only [List.map_cons, List.pairwise_cons] at h
    simp only [insertRecord]
    split
    · rename_i hlt
      simp only [List.map_cons, List.pairwise_cons]
      refine ⟨?_, h.1, h.2⟩
      intro x hx
      rcases List.mem_cons.mp hx with rfl | hx
      · omega
      · have := h.1 x hx
        omega
    · rename_i hge
      simp only [List.map_cons, List.pairwise_cons]
      refine ⟨?_, ih h.2⟩
      intro x hx
      have hp := ((insertRecord_perm r l).map (·.position)).mem_iff.mp hx
      rcases List.mem_cons.mp hp with rfl | hp
      · exact Nat.le_of_not_lt hge
      · exact h.1 x hp

/-- Retirement keeps belt order and the tags' distinctness, for it only takes records away. -/
theorem retireFinished_sublist (b : Block) : (retireFinished b).track.table.Sublist b.track.table :=
  List.filter_sublist

/-! ### The firing lists -/

theorem insertEntry_perm (e : Entry) (l : List Entry) : (insertEntry e l).Perm (e :: l) := by
  induction l with
  | nil => exact List.Perm.refl _
  | cons f l ih =>
    simp only [insertEntry]
    split
    · exact List.Perm.refl _
    · exact (List.Perm.cons f ih).trans (List.Perm.swap e f l)

/-- A list in ascending order of on slice, and of channel where those are equal, stays so when an entry is written (R88). -/
theorem insertEntry_order {e : Entry} {l : List Entry}
    (h : l.Pairwise fun a c => a.onSlice < c.onSlice ∨ a.onSlice = c.onSlice ∧ a.channel ≤ c.channel) :
    (insertEntry e l).Pairwise fun a c => a.onSlice < c.onSlice ∨ a.onSlice = c.onSlice ∧ a.channel ≤ c.channel := by
  induction l with
  | nil => exact List.pairwise_singleton _ _
  | cons f l ih =>
    have hp := List.pairwise_cons.mp h
    have hb : e.before f = true ↔ e.onSlice < f.onSlice ∨ e.onSlice = f.onSlice ∧ e.channel < f.channel := by
      simp [Entry.before]
    simp only [insertEntry]
    split
    · rename_i first
      have := hb.mp first
      refine List.pairwise_cons.mpr ⟨fun g hg => ?_, h⟩
      rcases List.mem_cons.mp hg with rfl | hg
      · omega
      · have := hp.1 g hg
        omega
    · rename_i later
      have := mt hb.mpr later
      refine List.pairwise_cons.mpr ⟨fun g hg => ?_, ih hp.2⟩
      rcases List.mem_cons.mp ((insertEntry_perm e l).mem_iff.mp hg) with rfl | hg
      · omega
      · exact hp.1 g hg

theorem withdrawTags_length (t : List ParticleRecord) (gone : List Nat) (l : List Entry) :
    (withdrawTags t gone l).length ≤ l.length := List.length_filterMap_le _ _

/-- A settled commit stays within the list's capacity. -/
theorem settleCommit_capacity {t : List ParticleRecord} {l : List Entry} {cfg : StationSettings} {capacity : Nat}
    {st : StationId} {r : ParticleRecord} {plan : Plan} {x : Settlement}
    (h : settleCommit t l cfg capacity st r plan = .ok x) : x.list.length ≤ capacity := by
  unfold settleCommit at h
  dsimp only at h
  split at h
  · exact absurd h (by simp)
  · split at h
    · exact absurd h (by simp)
    · split at h
      · exact absurd h (by simp)
      · cases h
        dsimp only
        omega

/-! ### What a commit and a crossing leave alone -/

/-- Only the table and the lists differ, with the tally store beside the table kept. -/
structure Block.SameButRecords (b c : Block) : Prop where
  outside : b.SameOutside c
  outcomes : c.track.outcomes = b.track.outcomes
  settings : c.settings = b.settings
  msg : c.msg = b.msg
  maint : c.maint = b.maint

theorem Block.SameButRecords.refl (b : Block) : b.SameButRecords b :=
  ⟨⟨rfl, rfl, rfl, rfl, rfl, rfl, rfl, rfl, rfl, rfl, rfl⟩, rfl, rfl, rfl, rfl⟩

theorem Block.SameButRecords.trans {a b c : Block} (h : a.SameButRecords b) (k : b.SameButRecords c) :
    a.SameButRecords c :=
  ⟨h.outside.trans k.outside, k.outcomes.trans h.outcomes, k.settings.trans h.settings, k.msg.trans h.msg,
    k.maint.trans h.maint⟩

/-- A chain of changes that each leave the rest alone leaves it alone. -/
theorem Block.SameButRecords.foldl {α : Type} {f : Block → α → Block} 
    (h : ∀ (b : Block) (a : α), b.SameButRecords (f b a)) (l : List α) (b : Block) : b.SameButRecords (l.foldl f b) := by
  induction l generalizing b with
  | nil => exact refl b
  | cons a l ih => exact (h b a).trans (ih (f b a))

theorem endEntry_same (st : StationId) (completed : Bool) (mark : SlotFlags → SlotFlags) (b : Block) (e : Entry) :
    b.SameButRecords (endEntry st completed mark b e) := by
  refine ⟨⟨?_, ?_, ?_, ?_, ?_, ?_, ?_, ?_, ?_, ?_, ?_⟩, ?_, ?_, ?_, ?_⟩ <;> simp [endEntry, Block.setTable]

/-- An entry that ends leaves its station's list no longer, and no other list changed. -/
theorem endEntry_lists (st : StationId) (completed : Bool) (mark : SlotFlags → SlotFlags) (b : Block) (e : Entry) :
    (endEntry st completed mark b e).lists = b.lists.set st ((b.lists.get st).filter fun f => !f.same e) := by
  simp [endEntry]

theorem endAtCrossing_same (st : StationId) (c : Nat) (b : Block) : b.SameButRecords (endAtCrossing st c b) :=
  Block.SameButRecords.foldl (fun b e => endEntry_same st true id b e) _ b

theorem followStart_same (st : StationId) (b : Block) (e : Entry) : b.SameButRecords (followStart st b e) := by
  unfold followStart
  split <;> refine ⟨⟨?_, ?_, ?_, ?_, ?_, ?_, ?_, ?_, ?_, ?_, ?_⟩, ?_, ?_, ?_, ?_⟩ <;>
    simp [updateChannel, Block.setTable]

theorem startAtCrossing_same (st : StationId) (c : Nat) (b : Block) : b.SameButRecords (startAtCrossing st c b) := by
  unfold startAtCrossing
  dsimp only
  refine Block.SameButRecords.trans ?_ (Block.SameButRecords.foldl (fun b e => followStart_same st b e) _ _)
  refine ⟨⟨?_, ?_, ?_, ?_, ?_, ?_, ?_, ?_, ?_, ?_, ?_⟩, ?_, ?_, ?_, ?_⟩ <;> simp

theorem commitAt_same (st : StationId) (tag : Nat) (b : Block) : b.SameButRecords (commitAt st tag b) := by
  have table (t : List ParticleRecord) : b.SameButRecords (b.setTable t) := by
    refine ⟨⟨?_, ?_, ?_, ?_, ?_, ?_, ?_, ?_, ?_, ?_, ?_⟩, ?_, ?_, ?_, ?_⟩ <;> simp [Block.setTable]
  unfold commitAt
  split
  · exact Block.SameButRecords.refl b
  · split
    · exact Block.SameButRecords.refl b
    · dsimp only
      split
      · exact Block.SameButRecords.refl b
      · split
        · exact table _
        · split
          · exact table _
          · split
            · exact table _
            · split
              · exact table _
              · refine ⟨⟨?_, ?_, ?_, ?_, ?_, ?_, ?_, ?_, ?_, ?_, ?_⟩, ?_, ?_, ?_, ?_⟩ <;>
                  simp [applyCommit, Block.setTable]

/-- One scheduler's work at a crossing touches table, lists and confirm timers alone. -/
theorem schedulerAtCrossing_same (c : Nat) (b : Block) (st : StationId) :
    b.SameButRecords (schedulerAtCrossing c b st) :=
  ((endAtCrossing_same st c b).trans (startAtCrossing_same st c _)).trans
    (Block.SameButRecords.foldl (fun b tag => commitAt_same st tag b) _ _)

/-! ### The turns of a purge (R177) -/

/-- A turn later in the cycle: the first OK channel from a number on. -/
theorem find_turn {b : Block} {st : StationId} {cycle start ch n : Nat} (h1 : start ≤ ch) (h2 : ch < n)
    (h3 : channelOk b st ch = true) (h4 : ∀ j, start ≤ j → j < ch → channelOk b st j = false) :
    ((List.range n).map fun c => (cycle, c)).find? (fun t =>
      (cycle < t.1 || (cycle == t.1 && start ≤ t.2)) && channelOk b st t.2) = some (cycle, ch) := by
  rw [List.find?_map]
  have : (List.range n).find? ((fun t : Nat × Nat =>
      (cycle < t.1 || (cycle == t.1 && start ≤ t.2)) && channelOk b st t.2) ∘ fun c => (cycle, c)) = some ch := by
    rw [List.find?_range_eq_some]
    refine ⟨by simp [h1, h3], by simpa using h2, ?_⟩
    intro j hj
    by_cases hs : start ≤ j
    · simp [h4 j hs hj]
    · simp [hs]
  rw [this]
  rfl

/-- The turns of the earlier cycles are passed over. -/
theorem find_turn_before {b : Block} {st : StationId} {cycle start n k : Nat} (hk : k < cycle) :
    ((List.range n).map fun c => (k, c)).find? (fun t =>
      (cycle < t.1 || (cycle == t.1 && start ≤ t.2)) && channelOk b st t.2) = none := by
  rw [List.find?_eq_none]
  intro t ht
  obtain ⟨c, _, rfl⟩ := List.mem_map.mp ht
  simp only [Bool.and_eq_true, Bool.or_eq_true, decide_eq_true_eq, beq_iff_eq, not_and]
  rintro (h | ⟨h, _⟩) <;> omega

/-- The next turn is the first OK channel of the cycle in hand, where it has one. -/
theorem nextTurn_first {b : Block} {p : Purge} {cycle start ch : Nat} (h1 : 1 ≤ cycle) (h2 : cycle ≤ p.cycles)
    (h : FirstOk b p.station start ch) : nextTurn b p cycle start = some (cycle, ch) := by
  obtain ⟨ha, hb, hc, hd⟩ := h
  unfold nextTurn purgeTurns
  have hsplit : List.range' 1 p.cycles =
      List.range' 1 (cycle - 1) ++ cycle :: List.range' (cycle + 1) (p.cycles - cycle) := by
    have hcons : cycle :: List.range' (cycle + 1) (p.cycles - cycle) = List.range' cycle (p.cycles - cycle + 1) :=
      List.range'_succ.symm
    rw [hcons]
    have := List.range'_append (s := 1) (m := cycle - 1) (n := p.cycles - cycle + 1) (step := 1)
    rw [show 1 + 1 * (cycle - 1) = cycle by omega, show cycle - 1 + (p.cycles - cycle + 1) = p.cycles by omega] at this
    exact this.symm
  rw [hsplit, List.flatMap_append, List.flatMap_cons, List.find?_append, List.find?_append]
  have hnone : (List.flatMap (fun cycle => (List.range (b.config p.station).channels).map fun ch => (cycle, ch))
      (List.range' 1 (cycle - 1))).find? (fun t =>
        (cycle < t.1 || (cycle == t.1 && start ≤ t.2)) && channelOk b p.station t.2) = none := by
    rw [List.find?_eq_none]
    intro t ht
    obtain ⟨k, hk, ht⟩ := List.mem_flatMap.mp ht
    have hk : k < cycle := by
      rw [List.mem_range'_1] at hk
      omega
    exact List.find?_eq_none.mp (find_turn_before hk) t ht
  rw [hnone, find_turn ha hb hc hd]
  rfl

end Sys2Proof.Machine
end

