-- ==== Sys2Proof/Laws/Refresh.lean ====
section
/-! SUPPORT. What a refresh and a slice crossing, with every fault and retirement they bring, leave alone: position,
intake, ranks, settings store, time and the encoder lines. -/

namespace Sys2Proof.Machine

/-- The parts no refresh, crossing or fault reaches. -/
structure Block.Kept (b c : Block) : Prop where
  pos : c.pos = b.pos
  intake : c.intake = b.intake
  ranks : c.ranks = b.ranks
  store : c.store = b.store
  clock : c.clock = b.clock
  encA : c.encA = b.encA
  encB : c.encB = b.encB

namespace Block.Kept

theorem refl (b : Block) : b.Kept b := ⟨rfl, rfl, rfl, rfl, rfl, rfl, rfl⟩

theorem trans {a b c : Block} (h : a.Kept b) (k : b.Kept c) : a.Kept c :=
  ⟨k.pos.trans h.pos, k.intake.trans h.intake, k.ranks.trans h.ranks, k.store.trans h.store, k.clock.trans h.clock,
    k.encA.trans h.encA, k.encB.trans h.encB⟩

theorem of_outside {b c : Block} (h : b.SameOutside c) : b.Kept c :=
  ⟨h.pos, h.intake, h.ranks, h.store, h.clock, h.encA, h.encB⟩

theorem foldl {α : Type} {f : Block → α → Block} (h : ∀ (b : Block) (a : α), b.Kept (f b a)) (l : List α)
    (b : Block) : b.Kept (l.foldl f b) := by
  induction l generalizing b with
  | nil => exact refl b
  | cons a l ih => exact (h b a).trans (ih (f b a))

end Block.Kept

/-! ### The single operations -/

theorem report_kept (body : ReportBody) (b : Block) : b.Kept (b.report body) := by
  constructor <;> simp [Block.report]

theorem updateChannel_kept (st : StationId) (ch : Nat) (f : Channel → Channel) (b : Block) :
    b.Kept (updateChannel st ch f b) := by
  constructor <;> simp [updateChannel]

theorem setStation_kept (st : StationId) (x : Station) (b : Block) : b.Kept (b.setStation st x) := by
  constructor <;> simp

theorem setList_kept (st : StationId) (l : List Entry) (b : Block) : b.Kept (b.setList st l) := by
  constructor <;> simp

theorem setMaint_kept (q : Sequencer) (b : Block) : b.Kept (b.setMaint q) := by constructor <;> simp

theorem setChain_kept (x : ChainUnit) (b : Block) : b.Kept (b.setChain x) := by constructor <;> simp

theorem retireFinished_kept (b : Block) : b.Kept (retireFinished b) :=
  ⟨rfl, rfl, rfl, rfl, rfl, rfl, rfl⟩

theorem drainDone_kept (b : Block) : b.Kept (drainDone b) := by
  have h := drainDone_same b
  exact ⟨h.pos, h.intake, h.ranks, h.store, h.clock, h.encA, h.encB⟩

theorem stopStations_outside (cause : StationCause) (b : Block) : b.SameOutside (stopStations cause b) := by
  have h : stopStations cause b =
      flush (disarmStation cause (disarmStation cause (disarmStation cause (disarmStation cause b 0) 1) 2) 3) := rfl
  rw [h]
  exact ((((disarmStation_outside _ _ _).trans (disarmStation_outside _ _ _)).trans
    (disarmStation_outside _ _ _)).trans (disarmStation_outside _ _ _)).trans (flush_spec _).1

theorem lineFault_kept (f : FaultCause) (b : Block) : b.Kept (lineFault f b) := by
  unfold lineFault
  split
  · refine (Block.Kept.of_outside (stopStations_outside .fault b)).trans ?_
    constructor <;> simp [enterLine, Block.report]
  · exact Block.Kept.refl b

/-! ### Shots, what is sent, channel faults -/

theorem beginShots_kept (b : Block) : b.Kept (beginShots b) := by
  unfold beginShots
  split
  · split
    · exact (setMaint_kept _ b).trans (updateChannel_kept _ _ _ _)
    · exact Block.Kept.refl b
    · exact Block.Kept.refl b
  · split
    · exact (setMaint_kept _ b).trans (updateChannel_kept _ _ _ _)
    · exact Block.Kept.refl b
  · exact Block.Kept.refl b
  · exact Block.Kept.refl b

theorem markSent_kept (b : Block) (st : StationId) : b.Kept (markSent b st) := by
  unfold markSent
  split
  · exact Block.Kept.foldl (fun _ _ => updateChannel_kept _ _ _ _) _ b
  · exact Block.Kept.refl b

theorem sendRefresh_kept (b : Block) : b.Kept (sendRefresh b) :=
  (beginShots_kept b).trans ((setChain_kept _ _).trans (Block.Kept.foldl markSent_kept _ _))

theorem maintenanceChannelFault_kept (st : StationId) (ch : Nat) (b : Block) :
    b.Kept (maintenanceChannelFault st ch b) := by
  unfold maintenanceChannelFault
  split
  · split
    · exact setMaint_kept _ b
    · exact Block.Kept.refl b
  · split
    · exact (setMaint_kept _ b).trans (report_kept _ _)
    · exact Block.Kept.refl b
  · exact Block.Kept.refl b
  · exact Block.Kept.refl b

theorem channelFault_kept (st : StationId) (ch : Nat) (cause : ChannelFault) (b : Block) :
    b.Kept (channelFault st ch cause b) := by
  unfold channelFault
  dsimp only
  exact (updateChannel_kept st ch (Channel.fail cause) b).trans
    ((Block.Kept.foldl
      (fun b e => Block.Kept.of_outside (endEntry_same st false SlotFlags.markDegraded b e).outside) _ _).trans
      ((setStation_kept st _ _).trans ((maintenanceChannelFault_kept st ch _).trans (report_kept _ _))))

/-! ### Station control's steps -/

theorem confirmCheck_kept (st : StationId) (b : Block) (ch : Nat) : b.Kept (confirmCheck st b ch) := by
  unfold confirmCheck
  split
  · exact Block.Kept.refl b
  · split
    · exact channelFault_kept _ _ _ _
    · split
      · exact (setList_kept _ _ b).trans (updateChannel_kept _ _ _ _)
      · exact Block.Kept.refl b

theorem timeLimit_kept (st : StationId) (b : Block) : b.Kept (timeLimit st b) := by
  unfold timeLimit
  refine Block.Kept.foldl (fun b e => ?_) _ _
  exact (Block.Kept.of_outside (endEntry_same st true SlotFlags.markCut b e).outside).trans (setStation_kept _ _ _)

theorem stuckCheck_kept (st : StationId) (b : Block) (ch : Nat) : b.Kept (stuckCheck st b ch) := by
  unfold stuckCheck
  split
  · split
    · split
      · exact updateChannel_kept _ _ _ _
      · exact channelFault_kept _ _ _ _
    · exact updateChannel_kept _ _ _ _
  · exact Block.Kept.refl b

theorem stationFault_kept (st : StationId) (b : Block) : b.Kept (stationFault st b) := by
  unfold stationFault
  split
  · exact Block.Kept.of_outside (leaveArmed_spec _ _ _ _).1
  · exact Block.Kept.refl b

theorem stationRefresh_kept (b : Block) (st : StationId) : b.Kept (stationRefresh b st) := by
  unfold stationRefresh
  split
  · exact (Block.Kept.foldl (confirmCheck_kept st) _ b).trans
      ((timeLimit_kept st _).trans ((Block.Kept.foldl (stuckCheck_kept st) _ _).trans (stationFault_kept st _)))
  · exact Block.Kept.refl b

theorem finishCalibration_kept (c : Calibration) (delays : List Nat) (b : Block) :
    b.Kept (finishCalibration c delays b) := by
  unfold finishCalibration
  dsimp only
  split <;> constructor <;> simp [endCalibration, Block.report, setLatency]

theorem calibrationStep_kept (before : Sequencer) (b : Block) : b.Kept (calibrationStep before b) := by
  unfold calibrationStep
  split
  · split
    · exact Block.Kept.refl b
    · split
      · dsimp only
        split
        · exact setMaint_kept _ b
        · exact finishCalibration_kept _ _ b
      · exact Block.Kept.refl b
  · exact Block.Kept.refl b

/-! ### The refresh and the crossing -/

theorem soundRefresh_kept (before : Sequencer) (ret : List Bool) (sent : Block) :
    sent.Kept (soundRefresh before ret sent) :=
  (setChain_kept _ sent).trans ((Block.Kept.foldl stationRefresh_kept _ _).trans
    ((calibrationStep_kept _ _).trans ((retireFinished_kept _).trans (drainDone_kept _))))

/-- No refresh is made in a reset, in STARTUP or in a census (R126). -/
theorem refresh_none {b : Block} (h : b.resetting ≠ none ∨ b.line.state = .startup ∨ b.chain.census = true)
    (ret : List Bool) : refresh ret b = b := by
  unfold refresh
  refine if_neg ?_
  rcases h with h | h | h
  · cases hr : b.resetting <;> simp_all [refreshMade, Block.started, Block.running]
  · simp [refreshMade, Block.started, h]
  · simp [refreshMade, h]

theorem refresh_kept (ret : List Bool) (b : Block) : b.Kept (refresh ret b) := by
  unfold refresh
  split
  · split
    · exact (sendRefresh_kept b).trans (soundRefresh_kept _ _ _)
    · exact (sendRefresh_kept b).trans ((setChain_kept _ _).trans (lineFault_kept _ _))
  · exact Block.Kept.refl b

/-- A crossing sets the scan slice and leaves the rest of these parts alone. -/
theorem crossing_kept (c : Nat) (ret : List Bool) (b : Block) :
    (b.setPos { b.pos with slice := c }).Kept (crossing c ret b) := by
  unfold crossing
  dsimp only
  generalize b.setPos { b.pos with slice := c } = sliced
  have h1 : sliced.Kept (allStations.foldl (schedulerAtCrossing c) sliced) :=
    Block.Kept.foldl (fun b st => Block.Kept.of_outside (schedulerAtCrossing_same c b st).outside) _ _
  exact h1.trans ((retireFinished_kept _).trans ((drainDone_kept _).trans (refresh_kept ret _)))

end Sys2Proof.Machine
end

