-- ==== Sys2Proof/Laws/Stops.lean ====
section
/-! SUPPORT. What a stop of the line ends, counts and reports: the stations one after another, then the flush. -/

namespace Sys2Proof.Machine

/-! ### Reports and retirement -/

theorem offerAll_append (l k : List ReportBody) (m : MessageUnit) : offerAll (l ++ k) m = offerAll k (offerAll l m) := by
  simp [offerAll, List.foldl_append]

theorem reportRetired_all (l : List ParticleRecord) (m : MessageUnit) :
    l.foldl reportRetired m = offerAll (resultsOf l) m := by
  induction l generalizing m with
  | nil => rfl
  | cons r l ih =>
    rw [List.foldl_cons, ih]
    unfold reportRetired resultsOf
    cases h : r.report <;> simp [h, offerAll]

/-- Retirement in the words of the statements. -/
theorem retireFinished_reports (b : Block) :
    (retireFinished b).msg = offerAll (resultsOf (b.track.table.filter ParticleRecord.finished)) b.msg ∧
      (retireFinished b).track.outcomes = (b.track.table.filter ParticleRecord.finished).foldl countOutcomes b.track.outcomes :=
  ⟨reportRetired_all _ _, rfl⟩

/-- One record has ended: it leaves the table, is counted and reported, and where it was the last one of a drain the line
goes to STANDBY with its NOTICE behind the RESULT. -/
theorem settleRecords_one {b : Block} {ended : ParticleRecord} {drained : Bool}
    (h : b.track.table.filter ParticleRecord.finished = [ended])
    (hd : drained = true ↔ b.line.state = .draining ∧ ∀ r ∈ b.track.table, r.finished = true) :
    settleRecords b =
      { b with
        track := ⟨b.track.table.filter fun r => !r.finished, countOutcomes b.track.outcomes ended⟩
        line := if drained = true then { b.line with state := .standby } else b.line
        msg :=
          offerAll
            (resultsOf [ended] ++ (if drained = true then [.lineNotice .draining .standby .drainDone .none] else []))
            b.msg } := by
  have retired : retireFinished b =
      { b with
        track := ⟨b.track.table.filter fun r => !r.finished, countOutcomes b.track.outcomes ended⟩
        msg := offerAll (resultsOf [ended]) b.msg } := by
    rw [← reportRetired_all]
    simp [retireFinished, h, Block.setTrack, Block.setMsg]
  unfold settleRecords
  rw [retired]
  have empty : b.track.table.filter (fun r => !r.finished) = [] ↔ ∀ r ∈ b.track.table, r.finished = true := by
    simp [List.filter_eq_nil_iff]
  unfold drainDone
  simp only [empty, ← hd]
  cases drained with
  | false => simp
  | true =>
    have left := (hd.mp rfl).1
    simp [enterLine, left, offerAll, Block.setLine, Block.report, Block.setMsg]

theorem leftBelow_succ (b : Block) (st : StationId) (r : ParticleRecord) :
    r.leftBelow b (st.val + 1) =
      if (b.stations.get st).state = .armed then (r.leftBelow b st.val).updateSlot st Slot.stationLeft
      else r.leftBelow b st.val := by
  fin_cases st <;> simp [ParticleRecord.leftBelow, allStations]

theorem goneBelow_succ (b : Block) (st : StationId) (r : ParticleRecord) :
    r.goneBelow b (st.val + 1) =
      (r.goneBelow b st.val || ((b.stations.get st).state == .armed && (r.leftBelow b (st.val + 1)).finished)) := by
  fin_cases st <;> simp [ParticleRecord.goneBelow, allStations, Bool.or_assoc]

theorem goneBelow_idle {b : Block} {st : StationId} (h : (b.stations.get st).state ≠ .armed) (r : ParticleRecord) :
    r.goneBelow b (st.val + 1) = r.goneBelow b st.val := by
  rw [goneBelow_succ]
  simp [h]

/-- The sequencer once the stations below number `k` have been disarmed. -/
def Block.maintBelow (b : Block) (k : Nat) : Sequencer :=
  let after (st : StationId) : Sequencer :=
    if st.val < k ∧ (b.stations.get st).state = .armed then .idle else b.maint
  match b.maint with
  | .purging p => after p.station
  | .suspended p => after p.station
  | .calibrating c => after c.station
  | .idle => .idle

/-- What stands once the stations below number `k` have been disarmed one after another. -/
structure StopStage (cause : StationCause) (b c : Block) (k : Nat) : Prop where
  table : c.track.table = (b.track.table.filter fun r => !r.goneBelow b k).map (ParticleRecord.leftBelow b k)
  outcomes : c.track.outcomes =
    ((allStations.filter (·.val < k)).flatMap b.retiredAt).foldl countOutcomes b.track.outcomes
  msg : c.msg = offerAll ((allStations.filter (·.val < k)).flatMap (b.stationReports cause)) b.msg
  maint : c.maint = b.maintBelow k
  stations : ∀ st : StationId, k ≤ st.val → c.stations.get st = b.stations.get st
  stopped : ∀ st : StationId, st.val < k → c.stations.get st = (b.stations.get st).stopped
  faulted : ∀ st, faultedCount c st = faultedCount b st
  names : ∀ st, holdCount st c = b.settings.routes.countP fun e => e.stations.get st

theorem below_succ (st : StationId) :
    allStations.filter (·.val < st.val + 1) = allStations.filter (·.val < st.val) ++ [st] := by
  fin_cases st <;> decide

theorem channelAt_quiet (l : List Channel) (ch : Nat) :
    (channelAt (l.map Channel.quiet) ch).fault = (channelAt l ch).fault := by
  unfold channelAt
  by_cases h : ch < l.length
  · simp [List.getD_eq_getElem?_getD, h, Channel.quiet]
  · simp [List.getD_eq_getElem?_getD, Nat.le_of_not_lt h]

theorem faultedCount_congr {b c : Block} {st : StationId} (h1 : (c.config st).channels = (b.config st).channels)
    (h2 : ∀ ch, channelOk c st ch = channelOk b st ch) : faultedCount c st = faultedCount b st := by
  unfold faultedCount channelNumbers
  rw [h1]
  simp only [h2]

theorem disarmStation_channelOk (cause : StationCause) (b : Block) (st other : StationId) (ch : Nat) :
    channelOk (disarmStation cause b st) other ch = channelOk b other ch := by
  by_cases h : other = st
  · subst h
    unfold channelOk Block.station
    unfold disarmStation
    split
    · rw [(leaveArmed_spec _ _ _ _).2.2.2]
      simp [Station.left, channelAt_quiet, Block.station]
    · simp [becomeDisarmed, stationNotice, Block.report, Block.setMsg, Block.setStation, Block.setStations, Block.station]
    · simp [becomeDisarmed, stationNotice, Block.report, Block.setMsg, Block.setStation, Block.setStations, Block.station]
    · rfl
  · unfold channelOk Block.station
    rw [disarmStation_other cause b h]

theorem disarmStation_faulted (cause : StationCause) (b : Block) (st other : StationId) :
    faultedCount (disarmStation cause b st) other = faultedCount b other := by
  apply faultedCount_congr
  · unfold Block.config
    rw [disarmStation_settings]
    split <;> rfl
  · exact disarmStation_channelOk cause b st other

theorem disarmStation_names (cause : StationCause) (b : Block) (st other : StationId) :
    holdCount other (disarmStation cause b st) = holdCount other b := by
  unfold holdCount
  rw [disarmStation_settings]
  split
  · rw [List.countP_map]
    congr 1
    funext e
    simp only [Function.comp, holdFor]
    split <;> rfl
  · rfl

/-- The reports and the sequencer of an abandoned run. -/
theorem abandonMaintenance_reports (st : StationId) (b : Block) :
    (abandonMaintenance st b).msg = offerAll (b.abandonedReports st) b.msg ∧
      (abandonMaintenance st b).maint = b.maintWithout st := by
  unfold abandonMaintenance Block.abandonedReports Block.maintWithout
  cases h : b.maint with
  | idle => simp [offerAll, h]
  | purging p =>
    by_cases hp : p.station = st
    · subst hp; simp [endPurge, Block.report, offerAll, faultedCount, channelNumbers, channelOk, Block.config, Block.station]
    · simp [hp, offerAll, h]
  | suspended p =>
    by_cases hp : p.station = st
    · subst hp; simp [endPurge, Block.report, offerAll, faultedCount, channelNumbers, channelOk, Block.config, Block.station]
    · simp [hp, offerAll, h]
  | calibrating c =>
    by_cases hp : c.station = st
    · subst hp; simp [endCalibration, Block.report, offerAll]
    · simp [hp, offerAll, h]

/-- What a station's leaving ARMED by DISARM, HALT or FAULT ends, counts and reports. -/
theorem leaveArmed_records {st : StationId} {new : StationState} (hn : new ≠ .faulted) (cause : StationCause) (b : Block) :
    let t := b.track.table.map (ParticleRecord.updateSlot st Slot.stationLeft)
    (leaveArmed st new cause b).track =
        ⟨t.filter fun r => !r.finished, (t.filter ParticleRecord.finished).foldl countOutcomes b.track.outcomes⟩ ∧
      (leaveArmed st new cause b).msg =
        offerAll (resultsOf (t.filter ParticleRecord.finished) ++ b.abandonedReports st ++
          [.stationNotice st .armed new cause (holdCount st b)]) b.msg ∧
      (leaveArmed st new cause b).maint = b.maintWithout st := by
  intro t
  set w := retireFinished (withdrawStation st b) with hw
  have hl : leaveArmed st new cause b =
      stationNotice st .armed new cause (holdCount st (abandonMaintenance st (setHolds st w)))
        ((abandonMaintenance st (setHolds st w)).setStation st (((abandonMaintenance st (setHolds st w)).station st).left new)) := by
    unfold leaveArmed
    dsimp only
    rw [if_neg hn]
  obtain ⟨q, m, ha⟩ := abandonMaintenance_eq st (setHolds st w)
  obtain ⟨hm, hq⟩ := abandonMaintenance_reports st (setHolds st w)
  have hmaint : (setHolds st w).maint = b.maint := rfl
  have hwm : (setHolds st w).msg = offerAll (resultsOf (t.filter ParticleRecord.finished)) b.msg :=
    (retireFinished_reports (withdrawStation st b)).1
  have hab : (setHolds st w).abandonedReports st = b.abandonedReports st := by
    unfold Block.abandonedReports
    rw [hmaint]
    have : faultedCount (setHolds st w) st = faultedCount b st := faultedCount_congr rfl fun _ => rfl
    rw [this]
  have hc : holdCount st (abandonMaintenance st (setHolds st w)) = holdCount st b := by
    rw [ha]
    show List.countP _ (List.map _ b.settings.routes) = _
    rw [List.countP_map]
    unfold holdCount
    congr 1
    funext e
    simp only [Function.comp]
    split <;> rfl
  rw [hl]
  refine ⟨?_, ?_, ?_⟩
  · simp only [stationNotice, Block.report, Block.setMsg_track, Block.setStation_track]
    rw [ha]
    rfl
  · simp only [stationNotice, Block.report, Block.setMsg_msg, Block.setStation_msg]
    rw [hm, hwm, hc, hab, offerAll_append, offerAll_append]
    rfl
  · simp only [stationNotice, Block.report, Block.setMsg_maint, Block.setStation_maint]
    rw [hq]
    unfold Block.maintWithout
    rw [hmaint]

theorem becomeDisarmed_records (st : StationId) (cause : StationCause) (b : Block) :
    (becomeDisarmed st cause b).track = b.track ∧ (becomeDisarmed st cause b).maint = b.maint ∧
      (becomeDisarmed st cause b).msg =
        offerAll [.stationNotice st (b.station st).state .disarmed cause 0] b.msg := ⟨rfl, rfl, rfl⟩

theorem maintBelow_succ (b : Block) (st : StationId) :
    b.maintBelow (st.val + 1) =
      if (b.stations.get st).state = .armed then
        match b.maintBelow st.val with
        | .purging p => if p.station = st then .idle else b.maintBelow st.val
        | .suspended p => if p.station = st then .idle else b.maintBelow st.val
        | .calibrating c => if c.station = st then .idle else b.maintBelow st.val
        | .idle => .idle
      else b.maintBelow st.val := by
  have key : ∀ q : StationId, (q.val < st.val + 1 ∧ (b.stations.get q).state = .armed) ↔
      ((q.val < st.val ∧ (b.stations.get q).state = .armed) ∨ (q = st ∧ (b.stations.get st).state = .armed)) := by
    intro q
    constructor
    · rintro ⟨h1, h2⟩
      by_cases h : q = st
      · subst h; exact Or.inr ⟨rfl, h2⟩
      · have hne : q.val ≠ st.val := fun e => h (Fin.ext e)
        exact Or.inl ⟨by omega, h2⟩
    · rintro (⟨h1, h2⟩ | ⟨rfl, h2⟩)
      · exact ⟨by omega, h2⟩
      · exact ⟨by omega, h2⟩
  unfold Block.maintBelow
  by_cases ha : (b.stations.get st).state = .armed
  · cases h : b.maint with
    | idle => simp
    | purging p =>
      simp only [key, ha]
      by_cases h1 : p.station.val < st.val ∧ (b.stations.get p.station).state = .armed
      · simp [h1, -Fin.val_fin_lt]
      · by_cases h2 : p.station = st <;> simp [h1, h2, -Fin.val_fin_lt]
    | suspended p =>
      simp only [key, ha]
      by_cases h1 : p.station.val < st.val ∧ (b.stations.get p.station).state = .armed
      · simp [h1, -Fin.val_fin_lt]
      · by_cases h2 : p.station = st <;> simp [h1, h2, -Fin.val_fin_lt]
    | calibrating p =>
      simp only [key, ha]
      by_cases h1 : p.station.val < st.val ∧ (b.stations.get p.station).state = .armed
      · simp [h1, -Fin.val_fin_lt]
      · by_cases h2 : p.station = st <;> simp [h1, h2, -Fin.val_fin_lt]
  · cases h : b.maint <;> simp only [key, ha, and_false, or_false, if_false]

/-- One station disarmed is that station stopped. -/
theorem disarmStation_stopped (cause : StationCause) (b : Block) (st : StationId) :
    (disarmStation cause b st).stations.get st = (b.stations.get st).stopped := by
  cases h : (b.stations.get st).state
  · simp [disarmStation, Station.stopped, Block.station, h]
  · simp [disarmStation, Station.stopped, Block.station, h, becomeDisarmed, stationNotice, Block.report, Block.setMsg,
      Block.setStation, Block.setStations]
  · simp only [disarmStation, Station.stopped, Block.station, h]
    rw [(leaveArmed_spec _ _ _ _).2.2.2, Four.get_set, if_pos rfl]
    rfl
  · simp [disarmStation, Station.stopped, Block.station, h, becomeDisarmed, stationNotice, Block.report, Block.setMsg,
      Block.setStation, Block.setStations]

theorem StopStage.step {cause : StationCause} {b c : Block} {st : StationId} (h : StopStage cause b c st.val) :
    StopStage cause b (disarmStation cause c st) (st.val + 1) := by
  have hst := h.stations st (Nat.le_refl _)
  have hrest : ∀ q : StationId, st.val + 1 ≤ q.val → (disarmStation cause c st).stations.get q = b.stations.get q := by
    intro q hq
    rw [disarmStation_other cause c (by intro e; subst e; omega)]
    exact h.stations q (by omega)
  have hdone : ∀ q : StationId, q.val < st.val + 1 →
      (disarmStation cause c st).stations.get q = (b.stations.get q).stopped := by
    intro q hq
    by_cases e : q = st
    · subst e
      rw [disarmStation_stopped, hst]
    · have hne : q.val ≠ st.val := fun k => e (Fin.ext k)
      rw [disarmStation_other cause c e]
      exact h.stopped q (by omega)
  have hf : ∀ q, faultedCount (disarmStation cause c st) q = faultedCount b q := fun q =>
    (disarmStation_faulted cause c st q).trans (h.faulted q)
  have hn : ∀ q, holdCount q (disarmStation cause c st) = b.settings.routes.countP fun e => e.stations.get q := fun q =>
    (disarmStation_names cause c st q).trans (h.names q)
  by_cases ha : (b.stations.get st).state = .armed
  · have hd : disarmStation cause c st = leaveArmed st .disarmed cause c := by
      unfold disarmStation Block.station
      rw [hst, ha]
    obtain ⟨k1, k2, k3⟩ := leaveArmed_records (st := st) (new := .disarmed) (by decide) cause c
    have hmap : c.track.table.map (ParticleRecord.updateSlot st Slot.stationLeft) =
        (b.track.table.filter fun r => !r.goneBelow b st.val).map (ParticleRecord.leftBelow b (st.val + 1)) := by
      rw [h.table, List.map_map]
      apply List.map_congr_left
      intro r _
      simp only [Function.comp]
      rw [leftBelow_succ, if_pos ha]
    have hfin : (c.track.table.map (ParticleRecord.updateSlot st Slot.stationLeft)).filter ParticleRecord.finished =
        b.retiredAt st := by
      rw [hmap, List.filter_map, List.filter_filter]
      unfold Block.retiredAt
      congr 1
      apply List.filter_congr
      intro r _
      rw [goneBelow_succ]
      simp only [ha, Function.comp]
      cases r.goneBelow b st.val <;> simp
    have hkeep : (c.track.table.map (ParticleRecord.updateSlot st Slot.stationLeft)).filter (fun r => !r.finished) =
        (b.track.table.filter fun r => !r.goneBelow b (st.val + 1)).map (ParticleRecord.leftBelow b (st.val + 1)) := by
      rw [hmap, List.filter_map, List.filter_filter]
      congr 1
      apply List.filter_congr
      intro r _
      rw [goneBelow_succ]
      simp only [ha, Function.comp]
      cases r.goneBelow b st.val <;> simp
    rw [hfin, hkeep] at k1
    rw [hfin] at k2
    refine ⟨?_, ?_, ?_, ?_, hrest, hdone, hf, hn⟩
    · rw [hd, k1]
    · rw [hd, k1, below_succ, List.flatMap_append, List.foldl_append, h.outcomes]
      simp
    · have hr : b.stationReports cause st = resultsOf (b.retiredAt st) ++ b.abandonedReports st ++
          [.stationNotice st .armed .disarmed cause (b.settings.routes.countP fun e => e.stations.get st)] := by
        unfold Block.stationReports
        rw [ha]
      have hab : c.abandonedReports st = b.abandonedReports st := by
        unfold Block.abandonedReports
        rw [h.maint, h.faulted]
        unfold Block.maintBelow
        cases hb : b.maint with
        | idle => rfl
        | purging p =>
          by_cases e2 : p.station.val < st.val ∧ (b.stations.get p.station).state = .armed
          · have e : p.station ≠ st := fun e => by rw [e] at e2; omega
            simp only [if_pos e2, if_neg e]
          · simp only [if_neg e2]
        | suspended p =>
          by_cases e2 : p.station.val < st.val ∧ (b.stations.get p.station).state = .armed
          · have e : p.station ≠ st := fun e => by rw [e] at e2; omega
            simp only [if_pos e2, if_neg e]
          · simp only [if_neg e2]
        | calibrating p =>
          by_cases e2 : p.station.val < st.val ∧ (b.stations.get p.station).state = .armed
          · have e : p.station ≠ st := fun e => by rw [e] at e2; omega
            simp only [if_pos e2, if_neg e]
          · simp only [if_neg e2]
      rw [hd, k2, hab, h.names, below_succ, List.flatMap_append, offerAll_append (List.flatMap _ _), ← h.msg]
      simp [hr]
    · rw [hd, k3, maintBelow_succ, if_pos ha]
      unfold Block.maintWithout
      cases hm : b.maintBelow st.val <;> simp only [h.maint, hm]
  · have hg : ∀ r : ParticleRecord, r.goneBelow b (st.val + 1) = r.goneBelow b st.val := goneBelow_idle ha
    have hl : ∀ r : ParticleRecord, r.leftBelow b (st.val + 1) = r.leftBelow b st.val := fun r => by
      rw [leftBelow_succ, if_neg ha]
    have hret : b.retiredAt st = [] := by
      unfold Block.retiredAt
      simp [hg]
    have hsame : (disarmStation cause c st).track = c.track ∧ (disarmStation cause c st).maint = c.maint ∧
        (disarmStation cause c st).msg = offerAll (b.stationReports cause st) c.msg := by
      unfold disarmStation Block.stationReports
      cases hs : (b.stations.get st).state with
      | armed => exact absurd hs ha
      | disarmed => simp [Block.station, hst, hs, offerAll]
      | arming => simp [Block.station, hst, hs, becomeDisarmed, stationNotice, Block.report, offerAll, Block.setMsg, Block.setStation, Block.setStations]
      | faulted => simp [Block.station, hst, hs, becomeDisarmed, stationNotice, Block.report, offerAll, Block.setMsg, Block.setStation, Block.setStations]
    obtain ⟨s1, s2, s3⟩ := hsame
    refine ⟨?_, ?_, ?_, ?_, hrest, hdone, hf, hn⟩
    · rw [s1, h.table]
      simp only [hg]
      apply List.map_congr_left
      intro r _
      exact (hl r).symm
    · rw [s1, h.outcomes, below_succ, List.flatMap_append]
      simp [hret]
    · rw [s3, h.msg, below_succ, List.flatMap_append, offerAll_append]
      simp
    · rw [s2, h.maint, maintBelow_succ, if_neg ha]

theorem StopStage.start (cause : StationCause) (b : Block) : StopStage cause b b 0 := by
  refine ⟨?_, ?_, ?_, ?_, fun _ _ => rfl, fun _ h => absurd h (Nat.not_lt_zero _), fun _ => rfl, fun _ => rfl⟩
  · have h1 : ∀ r : ParticleRecord, r.goneBelow b 0 = false := by intro r; simp [ParticleRecord.goneBelow, allStations]
    have h2 : ∀ r : ParticleRecord, r.leftBelow b 0 = r := by intro r; simp [ParticleRecord.leftBelow, allStations]
    have h3 : b.track.table.map (ParticleRecord.leftBelow b 0) = b.track.table :=
      (List.map_congr_left fun r _ => h2 r).trans (List.map_id _)
    simp [h1, h3]
  · simp
  · simp [offerAll]
  · unfold Block.maintBelow
    cases h : b.maint <;> simp

/-- What a stop of the line ends, counts and reports (R40, R43, R115, R140). -/
theorem stopStations_records (cause : StationCause) (b : Block) :
    (∀ st, (stopStations cause b).stations.get st = (b.stations.get st).stopped) ∧
    (stopStations cause b).track.outcomes = b.stopOutcomes ∧ (stopStations cause b).maint = b.stopMaint ∧
      (stopStations cause b).msg = offerAll (b.stopReports cause) b.msg := by
  have h0 := StopStage.start cause b
  have h1 := StopStage.step (st := 0) h0
  have h2 := StopStage.step (st := 1) h1
  have h3 := StopStage.step (st := 2) h2
  have h4 := StopStage.step (st := 3) h3
  have e : stopStations cause b =
    flush (disarmStation cause (disarmStation cause (disarmStation cause (disarmStation cause b 0) 1) 2) 3) := rfl
  rw [e]
  generalize disarmStation cause (disarmStation cause (disarmStation cause (disarmStation cause b 0) 1) 2) 3 = c at h4
  have hall : allStations.filter (fun q : StationId => decide (q.val < (3 : StationId).val + 1)) = allStations := by decide
  have ht := h4.table
  have ho := h4.outcomes
  have hm := h4.msg
  rw [hall] at ho hm
  have hfin : (c.track.table.map ParticleRecord.abort).filter ParticleRecord.finished = b.retiredByFlush := by
    rw [List.filter_eq_self.mpr]
    · rw [ht, List.map_map]
      rfl
    · intro r hr
      obtain ⟨q, _, rfl⟩ := List.mem_map.mp hr
      exact ParticleRecord.abort_finished q
  obtain ⟨f1, f2⟩ := retireFinished_reports ((c.setLists (Four.all4 [])).setTable (c.track.table.map ParticleRecord.abort))
  refine ⟨fun st => h4.stopped st st.isLt, ?_, ?_, ?_⟩
  · show (retireFinished _).track.outcomes = _
    rw [f2]
    show List.foldl _ c.track.outcomes (List.filter _ (c.track.table.map ParticleRecord.abort)) = _
    rw [hfin, ho]
    unfold Block.stopOutcomes
    rw [List.foldl_append]
  · show c.maint = _
    rw [h4.maint]
    unfold Block.maintBelow Block.stopMaint
    have hlt : ∀ q : StationId, q.val < (3 : StationId).val + 1 := fun q => q.isLt
    cases b.maint <;> simp only [hlt, true_and]
  · show (retireFinished _).msg = _
    rw [f1]
    show offerAll (resultsOf (List.filter _ (c.track.table.map ParticleRecord.abort))) c.msg = _
    rw [hfin, hm]
    unfold Block.stopReports
    rw [offerAll_append]
/-- What a taken line fault ends, counts and reports: its stop, and then its NOTICE (R143, R163). -/
theorem lineFault_records (f : FaultCause) (b : Block) (ht : faultTaken f b.line.state = true) :
    (∀ st, (lineFault f b).stations.get st = (b.stations.get st).stopped) ∧
      (lineFault f b).track.outcomes = b.stopOutcomes ∧ (lineFault f b).maint = b.stopMaint ∧
      (lineFault f b).msg =
        offerAll (b.stopReports .fault ++ [.lineNotice b.line.state .fault f.lineCause f]) b.msg := by
  obtain ⟨h1, h2, h3, h4⟩ := stopStations_records .fault b
  have h : lineFault f b =
      enterLine .fault f.lineCause
        ((stopStations .fault b).setLine { (stopStations .fault b).line with fault := f }) := if_pos ht
  have hl := (stopStations_outside .fault b).line
  rw [h]
  generalize stopStations .fault b = c at h1 h2 h3 h4 hl
  refine ⟨?_, ?_, ?_, ?_⟩
  · simpa [enterLine, Block.report] using h1
  · simpa [enterLine, Block.report] using h2
  · simpa [enterLine, Block.report] using h3
  · rw [offerAll_append, ← h4, ← hl]
    simp [enterLine, Block.report, offerAll]

/-! ### In the words of the statements -/

/-- The enable line of a DISARMED station is deasserted. -/
theorem Block.Shaped.quiet {b : Block} (h : b.Shaped) (st : StationId) (hd : (b.stations.get st).state = .disarmed) :
    (b.stations.get st).enable = false := by
  have he := h.enable st
  simp only [Block.station, hd] at he
  simpa using he

/-- What a stop reads of a block: two blocks alike in station states, table with tallies, routes and the reports of an
abandoned run stop alike. -/
theorem stop_alike {b c : Block} (h1 : ∀ st, (c.stations.get st).state = (b.stations.get st).state)
    (h2 : c.track = b.track) (h3 : c.settings = b.settings) :
    ((∀ st, c.abandonedReports st = b.abandonedReports st) → ∀ cause, c.stopReports cause = b.stopReports cause) ∧
      c.stopOutcomes = b.stopOutcomes ∧ (c.maint = b.maint → c.stopMaint = b.stopMaint) ∧
      c.heldSettings = b.heldSettings := by
  have hl : ParticleRecord.leftBelow c = ParticleRecord.leftBelow b := by
    funext k r
    unfold ParticleRecord.leftBelow
    simp only [h1]
  have hg : ParticleRecord.goneBelow c = ParticleRecord.goneBelow b := by
    funext k r
    unfold ParticleRecord.goneBelow
    simp only [h1, hl]
  have hr : c.retiredAt = b.retiredAt := by
    funext st
    unfold Block.retiredAt
    rw [hl, hg, h2]
  have hf : c.retiredByFlush = b.retiredByFlush := by
    unfold Block.retiredByFlush
    rw [hl, hg, h2]
  refine ⟨fun ha cause => ?_, ?_, fun hm => ?_, ?_⟩
  · have hs : c.stationReports cause = b.stationReports cause := by
      funext st
      unfold Block.stationReports
      rw [h1, hr, ha, h3]
    unfold Block.stopReports
    rw [hs, hf]
  · unfold Block.stopOutcomes
    rw [hr, hf, h2]
  · unfold Block.stopMaint
    simp only [hm, h1]
  · unfold Block.heldSettings
    simp only [h1, h3]

/-- Two blocks alike in stations, table with tallies, settings and sequencer stop alike. -/
theorem stop_congr {b c : Block} (h1 : c.stations = b.stations) (h2 : c.track = b.track) (h3 : c.settings = b.settings)
    (h4 : c.maint = b.maint) (cause : StationCause) :
    c.stopReports cause = b.stopReports cause ∧ c.stopOutcomes = b.stopOutcomes ∧ c.stopMaint = b.stopMaint ∧
      c.heldSettings = b.heldSettings := by
  obtain ⟨k1, k2, k3, k4⟩ := stop_alike (fun st => by rw [h1]) h2 h3
  refine ⟨k1 (fun st => ?_) cause, k2, k3 h4, k4⟩
  have hf : ∀ q, faultedCount c q = faultedCount b q := fun q => by
    unfold faultedCount channelNumbers channelOk Block.config Block.station
    rw [h1, h3]
  unfold Block.abandonedReports
  rw [h4]
  simp only [hf]

/-- A line fault of a block that differs from another in neither stations, table, settings nor sequencer: everything
`LineStopped` says of the other, and what is queued. -/
theorem lineFault_stopped {f : FaultCause} {b c : Block} (ht : faultTaken f c.line.state = true)
    (he : ∀ st, (b.stations.get st).state = .disarmed → (b.stations.get st).enable = false)
    (h1 : c.stations = b.stations) (h2 : c.track = b.track) (h3 : c.settings = b.settings) (h4 : c.maint = b.maint)
    (s : State) (m : MessageUnit) :
    LineStopped b { s with toBlock := (lineFault f c).setMsg m } ∧
      (lineFault f c).msg =
        offerAll (b.stopReports .fault ++ [.lineNotice c.line.state .fault f.lineCause f]) c.msg := by
  obtain ⟨_, d1, d2, _⟩ := lineFault_spec f c ht (by rw [h1]; exact he)
  obtain ⟨e1, e2, e3, e4⟩ := lineFault_records f c ht
  obtain ⟨k1, k2, k3, k4⟩ := stop_congr h1 h2 h3 h4 .fault
  rw [h1] at e1
  rw [k4] at d2
  rw [k2] at e2
  rw [k3] at e3
  rw [k1] at e4
  exact ⟨⟨⟨d1.table, d1.lists, d1.disarmed, d1.enable⟩, e1, d2, e2, e3⟩, e4⟩

/-- HALT of such a block likewise. -/
theorem haltLine_stopped {b c : Block}
    (he : ∀ st, (b.stations.get st).state = .disarmed → (b.stations.get st).enable = false)
    (h1 : c.stations = b.stations) (h2 : c.track = b.track) (h3 : c.settings = b.settings) (h4 : c.maint = b.maint)
    (s : State) (m : MessageUnit) :
    LineStopped b { s with toBlock := (haltLine c).setMsg m } ∧
      (haltLine c).line = { c.line with state := .halt } ∧ c.Kept (haltLine c) ∧ (haltLine c).chain = c.chain ∧
      (haltLine c).msg = offerAll (b.stopReports .halt ++ [.lineNotice c.line.state .halt .halt .none]) c.msg := by
  obtain ⟨o, d1, d2⟩ := stopStations_spec .halt c (by rw [h1]; exact he)
  obtain ⟨e1, e2, e3, e4⟩ := stopStations_records .halt c
  obtain ⟨k1, k2, k3, k4⟩ := stop_congr h1 h2 h3 h4 .halt
  rw [h1] at e1
  rw [k4] at d2
  rw [k2] at e2
  rw [k3] at e3
  rw [k1] at e4
  have ho := Block.Kept.of_outside o
  have hl := o.line
  have hc := o.chain
  unfold haltLine
  generalize stopStations .halt c = d at o d1 d2 e1 e2 e3 e4 ho hl hc
  refine ⟨⟨⟨?_, ?_, ?_, ?_⟩, ?_, ?_, ?_, ?_⟩, ?_, ho.trans ?_, ?_, ?_⟩
  · simpa [enterLine, Block.report] using d1.table
  · simpa [enterLine, Block.report] using d1.lists
  · simpa [enterLine, Block.report, Block.station] using d1.disarmed
  · simpa [enterLine, Block.report, Block.station] using d1.enable
  · simpa [enterLine, Block.report] using e1
  · simpa [enterLine, Block.report] using d2
  · simpa [enterLine, Block.report] using e2
  · simpa [enterLine, Block.report] using e3
  · simp [enterLine, Block.report, hl]
  · constructor <;> simp [enterLine, Block.report]
  · simp [enterLine, Block.report, hc]
  · rw [offerAll_append, ← e4]
    simp [enterLine, Block.report, offerAll, hl]

end Sys2Proof.Machine
end

