-- ==== Sys2Proof/Laws/Folds.lean ====
section
/-! SUPPORT. What a chain of single changes comes to: of list elements, of a station's channels, of the slots of some
tags, of the ends, starts and merges of entries. -/

namespace Sys2Proof.Machine

/-! ### Elements of a list -/

/-- One element is changed, and the others are not. -/
theorem modifyAt_eq_mapIdx {α : Type} (f : α → α) (i : Nat) (l : List α) :
    modifyAt f i l = l.mapIdx fun j a => if j = i then f a else a := by
  apply List.ext_getElem?
  intro j
  rw [List.getElem?_mapIdx]
  induction l generalizing i j with
  | nil => cases i <;> simp [modifyAt]
  | cons a l ih =>
    cases i with
    | zero => cases j <;> simp [modifyAt]
    | succ i => cases j <;> simp [modifyAt, ih]

theorem mapIdx_same {α : Type} {f : Nat → α → α} {l : List α} (h : ∀ i a, l[i]? = some a → f i a = a) :
    l.mapIdx f = l := by
  apply List.ext_getElem?
  intro j
  rw [List.getElem?_mapIdx]
  cases hj : l[j]? with
  | none => rfl
  | some a => simp [h j a hj]

/-- The elements at some indices are changed; a change that changes nothing twice is made once. -/
theorem foldl_modifyAt {α : Type} {f : α → α} (h : ∀ a, f (f a) = f a) (l : List Nat) (cs : List α) :
    l.foldl (fun acc i => modifyAt f i acc) cs = cs.mapIdx fun j a => if j ∈ l then f a else a := by
  induction l generalizing cs with
  | nil => exact (mapIdx_same (by simp)).symm
  | cons i l ih =>
    rw [List.foldl_cons, ih, modifyAt_eq_mapIdx, List.mapIdx_mapIdx]
    congr 1
    funext j a
    by_cases h1 : j = i <;> by_cases h2 : j ∈ l <;> simp [h1, h2, h, Function.comp]

/-! ### Channels of a station -/

/-- A change of one channel changes that channel of that station and nothing else. -/
theorem updateChannel_eq (st : StationId) (ch : Nat) (f : Channel → Channel) (b : Block) :
    updateChannel st ch f b =
      { b with
        stations :=
          b.stations.set st
            { b.stations.get st with channels := modifyAt f ch (b.stations.get st).channels } } := rfl

/-- Changes of several channels of one station. -/
theorem foldl_updateChannel (st : StationId) (f : Channel → Channel) (l : List Nat) (b : Block) :
    l.foldl (fun acc ch => updateChannel st ch f acc) b =
      { b with
        stations :=
          b.stations.set st
            { b.stations.get st with
              channels := l.foldl (fun acc i => modifyAt f i acc) (b.stations.get st).channels } } := by
  induction l generalizing b with
  | nil =>
    show b = { b with stations := b.stations.set st (b.stations.get st) }
    rw [Four.set_get]
  | cons i l ih =>
    rw [List.foldl_cons, ih, updateChannel_eq]
    simp

/-- What a refresh marks: each channel of an ARMED station whose output it sends on (R119). -/
theorem markSent_armed {b : Block} {st : StationId} (h : (b.stations.get st).state = .armed) :
    markSent b st =
      { b with
        stations :=
          b.stations.set st
            { b.stations.get st with
              channels :=
                (b.stations.get st).channels.mapIdx fun i ch =>
                  if i < (b.config st).channels ∧ b.chain.outputs.getD ((b.config st).firstOutput + i) false = true then
                    { ch with lastOn := some b.clock }
                  else ch } } := by
  have same (l : List Nat) (c : Block) (hc : c.clock = b.clock) :
      l.foldl (fun acc ch => updateChannel st ch (fun c => { c with lastOn := some acc.clock }) acc) c =
        l.foldl (fun acc ch => updateChannel st ch (fun c => { c with lastOn := some b.clock }) acc) c := by
    induction l generalizing c with
    | nil => rfl
    | cons i l ih =>
      rw [List.foldl_cons, List.foldl_cons, hc]
      exact ih _ hc
  unfold markSent
  rw [if_pos (show (b.station st).state = .armed from h), same _ _ rfl, foldl_updateChannel,
    foldl_modifyAt (f := fun c : Channel => { c with lastOn := some b.clock }) fun _ => rfl]
  simp [channelNumbers, channelState]

theorem markSent_idle {b : Block} {st : StationId} (h : (b.stations.get st).state ≠ .armed) : markSent b st = b :=
  if_neg h

/-! ### Slots of some tags -/

/-- The records of some tags are changed, each as often as its tag stands among them. -/
theorem foldl_updateRecord {g : Nat → ParticleRecord → ParticleRecord} (h : ∀ tag r, (g tag r).tag = r.tag)
    (tags : List Nat) (t : List ParticleRecord) :
    tags.foldl (fun acc tag => updateRecord tag (g tag) acc) t = t.map fun r => (g r.tag)^[tags.count r.tag] r := by
  induction tags generalizing t with
  | nil => simp
  | cons tag tags ih =>
    rw [List.foldl_cons, ih]
    simp only [updateRecord, List.map_map]
    apply List.map_congr_left
    intro r _
    simp only [Function.comp_apply]
    by_cases hr : r.tag = tag
    · subst hr
      simp [h, Function.iterate_succ_apply]
    · rw [if_neg hr, List.count_cons_of_ne (Ne.symm hr)]

/-- A change of the slot at a station, made several times. -/
theorem updateSlot_iterate (st : StationId) (f : Slot → Slot) (n : Nat) (r : ParticleRecord) :
    (ParticleRecord.updateSlot st f)^[n] r = r.updateSlot st f^[n] := by
  induction n generalizing r with
  | zero => simp [ParticleRecord.updateSlot]
  | succ n ih =>
    rw [Function.iterate_succ_apply, ih]
    simp [ParticleRecord.updateSlot, Function.iterate_succ]

/-- The slots of some tags at a station are changed, each as often as its tag stands among them. -/
theorem foldl_updateSlot (st : StationId) (f : Nat → Slot → Slot) (tags : List Nat) (t : List ParticleRecord) :
    tags.foldl (fun acc tag => updateSlot tag st (f tag) acc) t =
      t.map fun r => r.updateSlot st (f r.tag)^[tags.count r.tag] := by
  have := foldl_updateRecord (g := fun tag => ParticleRecord.updateSlot st (f tag)) (fun _ _ => rfl) tags t
  simp only [updateSlot_iterate] at this
  exact this

/-- A change that changes nothing twice is made once. -/
theorem iterate_once {α : Type} {f : α → α} (h : ∀ a, f (f a) = f a) {n : Nat} (hn : n ≠ 0) (a : α) :
    f^[n] a = f a := by
  induction n generalizing a with
  | zero => exact absurd rfl hn
  | succ n ih =>
    rw [Function.iterate_succ_apply]
    by_cases h0 : n = 0
    · subst h0
      rfl
    · rw [ih h0, h]

theorem updateSlot_same (st : StationId) (r : ParticleRecord) : r.updateSlot st (fun sl => sl) = r := by
  simp [ParticleRecord.updateSlot]

theorem updateSlot_twice (st : StationId) (f g : Slot → Slot) (r : ParticleRecord) :
    (r.updateSlot st f).updateSlot st g = r.updateSlot st (g ∘ f) := by simp [ParticleRecord.updateSlot]

theorem ended_once (o : SlotOutcome) (sl : Slot) : (sl.ended o).ended o = sl.ended o := by
  rcases sl with ⟨_, _, _ | _, _⟩ <;> rfl

/-! ### The place of a record, and lists without repeats -/

/-- A record stands behind every record of its position or a lower one (R35). -/
theorem insertRecord_split (r : ParticleRecord) (t : List ParticleRecord) :
    insertRecord r t =
      t.takeWhile (fun q => q.position ≤ r.position) ++ r :: t.dropWhile (fun q => q.position ≤ r.position) := by
  induction t with
  | nil => rfl
  | cons q t ih =>
    unfold insertRecord
    rw [List.takeWhile_cons, List.dropWhile_cons]
    by_cases h : r.position < q.position
    · rw [if_pos h, if_neg (by simpa using h), if_neg (by simpa using h)]
      rfl
    · rw [if_neg h, if_pos (by simpa using h), if_pos (by simpa using h), ih]
      rfl

theorem distinct_eq (l : List Nat) : distinct l = l.dedup := by
  induction l with
  | nil => rfl
  | cons x l ih =>
    unfold distinct
    split
    · rename_i h
      rw [List.dedup_cons_of_mem h, ih]
    · rename_i h
      rw [List.dedup_cons_of_notMem h, ih]

/-! ### The oldest RESULT -/

theorem oldestResult_none {l : List Report} (h : ∀ q ∈ l, q.body.isResult = false) : oldestResult l = none := by
  induction l with
  | nil => rfl
  | cons a l ih =>
    unfold oldestResult
    rw [if_neg (by simp [h a]), ih fun q hq => h q (by simp [hq])]
    rfl

theorem oldestResult_some {before after : List Report} {q : Report} (h : ∀ r ∈ before, r.body.isResult = false)
    (hq : q.body.isResult = true) : oldestResult (before ++ q :: after) = some before.length := by
  induction before with
  | nil => simp [oldestResult, hq]
  | cons a l ih =>
    simp only [List.cons_append, oldestResult]
    rw [if_neg (by simp [h a]), ih fun r hr => h r (by simp [hr])]
    rfl

/-! ### Ends of entries -/

/-- An entry's end in one piece: its list without it, and each slot of its tags with one entry less. -/
theorem endEntry_eq (st : StationId) (completed : Bool) (mark : SlotFlags → SlotFlags) (b : Block) (e : Entry)
    {l : List Entry} (hl : l = (b.lists.get st).filter fun f => !f.same e) :
    endEntry st completed mark b e =
      { b with
        lists := b.lists.set st l
        track :=
          { b.track with
            table :=
              b.track.table.map fun r =>
                r.updateSlot st
                  (Slot.loseEntry r.action completed (tagActive l r.tag) mark)^[e.tags.count r.tag] } } := by
  subst hl
  unfold endEntry
  dsimp only
  generalize (b.lists.get st).filter (fun f => !f.same e) = l
  rw [foldl_updateRecord
    (g := fun tag r => r.updateSlot st (Slot.loseEntry r.action completed (tagActive l tag) mark)) fun _ _ => rfl]
  simp only [Block.setTable, Block.setTrack, Block.setList, Block.setLists]
  congr 2
  apply List.map_congr_left
  intro r _
  have again (act : Bool) (n : Nat) (q : ParticleRecord) (hq : q.action = r.action) :
      (fun q : ParticleRecord => q.updateSlot st (Slot.loseEntry q.action completed act mark))^[n] q =
        q.updateSlot st (Slot.loseEntry r.action completed act mark)^[n] := by
    induction n generalizing q with
    | zero => simp [ParticleRecord.updateSlot]
    | succ n ih =>
      rw [Function.iterate_succ_apply, ih (q.updateSlot st _) hq, hq]
      simp [ParticleRecord.updateSlot, Function.iterate_succ]
  exact again _ _ r rfl

/-- The entries that end leave the list, and no other does. -/
theorem foldl_endEntry_lists (st : StationId) (completed : Bool) (mark : SlotFlags → SlotFlags) (l : List Entry)
    (b : Block) :
    (l.foldl (endEntry st completed mark) b).lists =
      b.lists.set st
        ((b.lists.get st).filter fun f => ∀ e ∈ l, e.channel ≠ f.channel ∨ e.onSlice ≠ f.onSlice) := by
  induction l generalizing b with
  | nil => simp
  | cons e l ih =>
    rw [List.foldl_cons, ih, endEntry_lists]
    simp only [Four.get_set, if_true, Four.set_set, List.filter_filter]
    congr 1
    apply List.filter_congr
    intro f _
    rw [Bool.eq_iff_iff]
    simp only [List.forall_mem_cons, Entry.same, Bool.and_eq_true, decide_eq_true_eq, Bool.not_eq_true',
      Bool.and_eq_false_iff, beq_eq_false_iff_ne, ne_eq, eq_comm (a := f.channel), eq_comm (a := f.onSlice)]
    exact and_comm

/-! ### Starts of entries -/

theorem started_once (sl : Slot) : sl.started.started = sl.started := by rcases sl with ⟨_ | _ | _ | _, _, _, _⟩ <;> rfl

theorem startConfirm_once (now : Nat) (ch : Channel) :
    (ch.startConfirm now).startConfirm now = ch.startConfirm now := by rcases ch with ⟨_, _ | _, _, _⟩ <;> rfl

/-- One entry's start in one piece. -/
theorem followStart_eq (st : StationId) (b : Block) (e : Entry) :
    followStart st b e =
      { b with
        track :=
          { b.track with
            table := b.track.table.map fun r => if r.tag ∈ e.tags then r.updateSlot st Slot.started else r }
        stations :=
          b.stations.set st
            { b.stations.get st with
              channels :=
                (b.stations.get st).channels.mapIdx fun i ch =>
                  if e.kind = .eject ∧ e.channel = i then ch.startConfirm b.clock else ch } } := by
  have table :
      e.tags.foldl (fun t tag => updateSlot tag st Slot.started t) b.track.table =
        b.track.table.map fun r => if r.tag ∈ e.tags then r.updateSlot st Slot.started else r := by
    rw [foldl_updateSlot st fun _ => Slot.started]
    apply List.map_congr_left
    intro r _
    split
    · rename_i h
      congr 1
      funext sl
      exact iterate_once started_once (by simpa [List.count_eq_zero] using h) sl
    · rename_i h
      rw [List.count_eq_zero.mpr h]
      exact updateSlot_same st r
  unfold followStart
  dsimp only
  rw [table]
  split
  · rename_i h
    rw [updateChannel_eq, modifyAt_eq_mapIdx]
    simp [h, Block.setTable, Block.setTrack, eq_comm]
  · rename_i h
    rw [mapIdx_same (by simp [h])]
    show _ = { b with track := _, stations := b.stations.set st (b.stations.get st) }
    simp [Block.setTable, Block.setTrack]

/-- The starts of several entries in one piece. -/
theorem foldl_followStart (st : StationId) (es : List Entry) (b : Block) :
    es.foldl (followStart st) b =
      { b with
        track :=
          { b.track with
            table :=
              b.track.table.map fun r => if ∃ e ∈ es, r.tag ∈ e.tags then r.updateSlot st Slot.started else r }
        stations :=
          b.stations.set st
            { b.stations.get st with
              channels :=
                (b.stations.get st).channels.mapIdx fun i ch =>
                  if ∃ e ∈ es, e.kind = .eject ∧ e.channel = i then ch.startConfirm b.clock else ch } } := by
  induction es generalizing b with
  | nil =>
    rw [mapIdx_same (by simp)]
    show b = { b with track := _, stations := b.stations.set st (b.stations.get st) }
    simp
  | cons e es ih =>
    rw [List.foldl_cons, ih, followStart_eq]
    simp only [Four.get_set, if_true, Four.set_set, List.map_map, List.mapIdx_mapIdx, List.exists_mem_cons_iff]
    congr 2
    · congr 1
      funext r
      simp only [Function.comp_apply]
      by_cases h : r.tag ∈ e.tags
      · simp only [h, if_true, true_or]
        split
        · rw [updateSlot_twice]
          congr 1
          funext sl
          exact started_once sl
        · rfl
      · simp only [h, if_false, false_or]
    · congr 1
      apply List.ext_getElem?
      intro j
      rw [List.getElem?_mapIdx, List.getElem?_mapIdx]
      cases (b.stations.get st).channels[j]? with
      | none => rfl
      | some ch =>
        simp only [Option.map_some, Function.comp]
        congr 1
        by_cases h : e.kind = .eject ∧ e.channel = j
        · simp only [h, and_self, if_true, true_or]
          split
          · exact startConfirm_once _ _
          · rfl
        · rw [if_neg h]
          simp only [h, false_or]

/-! ### Merges -/

theorem merged_twice (a c : Bool) (sl : Slot) : (sl.merged a).merged c = sl.merged (a || c) := by
  rcases sl with ⟨st, _, _, _⟩
  cases a <;> cases c <;> cases st <;> rfl

/-- The marks of one written entry in one piece. -/
theorem markJoined_eq (st : StationId) (t : List ParticleRecord) (w : Written) :
    markJoined st t w =
      t.map fun r =>
        r.updateSlot st fun sl =>
          if w.joined = true ∧ r.tag ∈ w.entry.tags then sl.merged w.entry.state.isActive else sl := by
  unfold markJoined
  split
  · rename_i h
    rw [foldl_updateSlot st fun _ => Slot.merged w.entry.state.isActive]
    apply List.map_congr_left
    intro r _
    congr 1
    funext sl
    by_cases hm : r.tag ∈ w.entry.tags
    · rw [if_pos ⟨h, hm⟩]
      exact iterate_once (fun a => by rw [merged_twice]; simp) (by simpa [List.count_eq_zero] using hm) sl
    · rw [if_neg (by simp [hm]), List.count_eq_zero.mpr hm]
      rfl
  · rename_i h
    simp [h, updateSlot_same]

/-- The marks of all written entries in one piece (R96). -/
theorem foldl_markJoined (st : StationId) (ws : List Written) (t : List ParticleRecord) :
    ws.foldl (markJoined st) t =
      t.map fun r =>
        r.updateSlot st fun sl =>
          if ∃ w ∈ ws, w.joined = true ∧ r.tag ∈ w.entry.tags then
            sl.merged (decide (∃ w ∈ ws, w.joined = true ∧ r.tag ∈ w.entry.tags ∧ w.entry.state.isActive = true))
          else sl := by
  induction ws generalizing t with
  | nil => simp [updateSlot_same]
  | cons w ws ih =>
    rw [List.foldl_cons, ih, markJoined_eq, List.map_map]
    apply List.map_congr_left
    intro r _
    have tag (f : Slot → Slot) : (r.updateSlot st f).tag = r.tag := rfl
    simp only [Function.comp_apply]
    rw [updateSlot_twice]
    congr 1
    funext sl
    simp only [Function.comp_apply, List.exists_mem_cons_iff, tag]
    by_cases h : w.joined = true ∧ r.tag ∈ w.entry.tags
    · simp only [h, and_self, if_true, true_or, true_and]
      split
      · rw [merged_twice]
        congr 1
        rw [Bool.eq_iff_iff]
        simp
      · rename_i h2
        congr 1
        rw [Bool.eq_iff_iff]
        simp only [decide_eq_true_eq]
        exact ⟨Or.inl, fun k => k.elim id fun ⟨v, hv, hj, ht, _⟩ => absurd ⟨v, hv, hj, ht⟩ h2⟩
    · have h3 : ¬(w.joined = true ∧ r.tag ∈ w.entry.tags ∧ w.entry.state.isActive = true) :=
        fun k => h ⟨k.1, k.2.1⟩
      simp only [h, h3, false_or, if_false]

end Sys2Proof.Machine
end

