-- ==== Sys2Proof/Laws/Layouts.lean ====
section
/-! SUPPORT. Fields of layouts: lengths of what is sent, and reading a field back from a concatenation. -/

namespace Sys2Proof.Machine

/-! ### Lengths -/

@[simp] theorem leDigits_length (k n : Nat) : (leDigits k n).length = k := by
  induction k generalizing n with
  | zero => rfl
  | succ j ih => simp [leDigits, ih]

@[simp] theorem le_length (k n : Nat) : (le k n).length = k := leDigits_length _ _

@[simp] theorem leSigned_length (k : Nat) (z : Int) : (leSigned k z).length = k := by
  unfold leSigned
  split <;> exact leDigits_length _ _

@[simp] theorem byte_length (n : Nat) : (byte n).length = 1 := le_length _ _

@[simp] theorem packBits_length (k : Nat) (l : List Bool) : (packBits k l).length = k := by
  induction k generalizing l with
  | zero => rfl
  | succ j ih => simp [packBits, ih]

@[simp] theorem tallyBytes_length (l : List Nat) : (tallyBytes l).length = 4 * l.length := by
  induction l with
  | nil => rfl
  | cons a l ih =>
    simp only [tallyBytes, List.flatMap_cons, List.length_append, le_length, List.length_cons] at ih ⊢
    omega

@[simp] theorem unknownOr_length (c : Option Nat) : (unknownOr c).length = 1 := by cases c <;> simp [unknownOr]

@[simp] theorem pointerBytes_length (p : Pointer) : (pointerBytes p).length = 3 := by simp [pointerBytes]

@[simp] theorem slotBytes_length (s : Option Slot) : (slotBytes s).length = 26 := by
  cases s with
  | none => simp [slotBytes]
  | some sl =>
    rcases sl with ⟨state, commit, figures, flags⟩
    cases state <;> cases figures <;> simp [slotBytes]

/-! ### Reading a field back -/

theorem leValue_leDigits (k n : Nat) (h : n < 256 ^ k) : leValue (leDigits k n) = n := by
  induction k generalizing n with
  | zero =>
    simp only [Nat.pow_zero] at h
    simp [leDigits, leValue]
    omega
  | succ j ih =>
    have small : n / 256 < 256 ^ j := by
      rw [Nat.div_lt_iff_lt_mul (by decide), ← Nat.pow_succ]
      exact h
    simp only [leDigits, leValue, ih _ small, BitVec.toNat_ofNat]
    omega

/-- A field that lies in the first part. -/
theorem field_append_left (a b : List Byte) (start size : Nat) (h : start + size ≤ a.length) :
    field (a ++ b) start size = field a start size := by
  unfold field
  rw [List.drop_append_of_le_length (by omega), List.take_append_of_le_length (by simp; omega)]

/-- A field that lies past the first part. -/
theorem field_append_right (a b : List Byte) (start size : Nat) (h : a.length ≤ start) :
    field (a ++ b) start size = field b (start - a.length) size := by
  unfold field
  rw [List.drop_append]
  simp [List.drop_eq_nil_of_le h]

theorem field_whole (l : List Byte) (size : Nat) (h : l.length ≤ size) : field l 0 size = leValue l := by
  unfold field
  rw [List.drop_zero, List.take_of_length_le h]

/-- A field reads back the value it was written with, where that fits. -/
theorem field_le (k n : Nat) (h : n < 256 ^ k) : field (le k n) 0 k = n := by
  rw [field_whole _ _ (by simp)]
  unfold le
  rw [if_pos h, leValue_leDigits k n h]

theorem field_byte (n : Nat) (h : n < 256) : field (byte n) 0 1 = n := field_le 1 n (by omega)

/-! ### A layout that starts with a field: reading that field, or one past it -/

theorem field_le_here (k n : Nat) (b : List Byte) (h : n < 256 ^ k) : field (le k n ++ b) 0 k = n := by
  rw [field_append_left _ _ _ _ (Nat.le_of_eq (by rw [le_length, Nat.zero_add]))]
  exact field_le k n h

theorem field_byte_here (n : Nat) (b : List Byte) (h : n < 256 ^ 1) : field (byte n ++ b) 0 1 = n :=
  field_le_here 1 n b h

theorem field_unknownOr_here (c : Option Nat) (b : List Byte) (h : c.getD 255 < 256 ^ 1) :
    field (unknownOr c ++ b) 0 1 = c.getD 255 := by
  rw [field_append_left _ _ _ _ (Nat.le_of_eq (by rw [unknownOr_length]))]
  cases c with
  | none => rfl
  | some n => exact field_byte n h

/-- A signed field reads back in two's complement. -/
theorem field_leSigned (k : Nat) (z : Int) (low : -(256 ^ k : Int) ≤ 2 * z) (high : 2 * z < 256 ^ k) :
    (field (leSigned k z) 0 k : Int) = if 0 ≤ z then z else z + 256 ^ k := by
  rw [field_whole _ _ (Nat.le_of_eq (leSigned_length k z))]
  unfold leSigned
  rw [if_pos ⟨low, high⟩]
  have pos : (0 : Int) < 256 ^ k := by positivity
  have nonneg := Int.emod_nonneg z (Int.ne_of_gt pos)
  have below := Int.emod_lt_of_pos z pos
  rw [leValue_leDigits]
  · rw [Int.toNat_of_nonneg nonneg]
    split
    · rw [Int.emod_eq_of_lt] <;> omega
    · rw [← Int.add_emod_right, Int.emod_eq_of_lt] <;> omega
  · zify
    rw [Int.toNat_of_nonneg nonneg]
    exact below

theorem field_leSigned_here (k : Nat) (z : Int) (b : List Byte) (low : -(256 ^ k : Int) ≤ 2 * z)
    (high : 2 * z < 256 ^ k) : (field (leSigned k z ++ b) 0 k : Int) = if 0 ≤ z then z else z + 256 ^ k := by
  rw [field_append_left _ _ _ _ (Nat.le_of_eq (by rw [leSigned_length, Nat.zero_add]))]
  exact field_leSigned k z low high

theorem field_skip (a b : List Byte) (start size n : Nat) (h : a.length = n) (past : n ≤ start) :
    field (a ++ b) start size = field b (start - n) size := by
  rw [field_append_right a b start size (by omega), h]

theorem field_le_skip (k n : Nat) (b : List Byte) (start size : Nat) (past : k ≤ start) :
    field (le k n ++ b) start size = field b (start - k) size := field_skip _ _ _ _ _ (le_length k n) past

theorem field_byte_skip (n : Nat) (b : List Byte) (start size : Nat) (past : 1 ≤ start) :
    field (byte n ++ b) start size = field b (start - 1) size := field_skip _ _ _ _ _ (byte_length n) past

theorem field_leSigned_skip (k : Nat) (z : Int) (b : List Byte) (start size : Nat) (past : k ≤ start) :
    field (leSigned k z ++ b) start size = field b (start - k) size := field_skip _ _ _ _ _ (leSigned_length k z) past

theorem field_packBits_skip (k : Nat) (l : List Bool) (b : List Byte) (start size : Nat) (past : k ≤ start) :
    field (packBits k l ++ b) start size = field b (start - k) size := field_skip _ _ _ _ _ (packBits_length k l) past

theorem field_unknownOr_skip (c : Option Nat) (b : List Byte) (start size : Nat) (past : 1 ≤ start) :
    field (unknownOr c ++ b) start size = field b (start - 1) size := field_skip _ _ _ _ _ (unknownOr_length c) past

theorem field_slotBytes_skip (x : Option Slot) (b : List Byte) (start size : Nat) (past : 26 ≤ start) :
    field (slotBytes x ++ b) start size = field b (start - 26) size := field_skip _ _ _ _ _ (slotBytes_length x) past

theorem field_zeros_here (k : Nat) (b : List Byte) : field (List.replicate k 0#8 ++ b) 0 k = 0 := by
  rw [field_append_left _ _ _ _ (by rw [List.length_replicate, Nat.zero_add]),
    field_whole _ _ (by rw [List.length_replicate])]
  induction k with
  | zero => rfl
  | succ j ih =>
    simp only [List.replicate_succ, leValue, ih]
    rfl

theorem field_zeros_skip (k : Nat) (b : List Byte) (start size : Nat) (past : k ≤ start) :
    field (List.replicate k 0#8 ++ b) start size = field b (start - k) size :=
  field_skip _ _ _ _ _ List.length_replicate past

/-- The tally at an index of its group, in a reply that goes on after the group. -/
theorem field_tallyBytes (l : List Nat) (i v : Nat) (b : List Byte) (h : l[i]? = some v) (fits : v < 256 ^ 4) :
    field (tallyBytes l ++ b) (4 * i) 4 = v := by
  induction l generalizing i with
  | nil => simp at h
  | cons a l ih =>
    unfold tallyBytes at ih ⊢
    rw [List.flatMap_cons, List.append_assoc]
    cases i with
    | zero =>
      cases h
      exact field_le_here _ _ _ fits
    | succ j =>
      rw [field_le_skip _ _ _ _ _ (by omega), show 4 * (j + 1) - 4 = 4 * j by omega]
      exact ih j h

/-! ### Packed states -/

theorem bitsValue_lt (l : List Bool) : bitsValue l < 2 ^ l.length := by
  induction l with
  | nil => decide
  | cons a l ih =>
    have : flagCode a < 2 := by cases a <;> decide
    simp only [bitsValue, List.length_cons, Nat.pow_succ]
    omega

/-- Bit `m` of the number whose bits are some flags is the flag at `m`. -/
theorem bitsValue_bit (l : List Bool) (m : Nat) : bitsValue l / 2 ^ m % 2 = flagCode (l.getD m false) := by
  induction l generalizing m with
  | nil => simp [bitsValue, flagCode]
  | cons a l ih =>
    have : flagCode a < 2 := by cases a <;> decide
    cases m with
    | zero =>
      simp only [bitsValue, Nat.pow_zero, Nat.div_one, List.getD_cons_zero]
      omega
    | succ m =>
      simp only [bitsValue, List.getD_cons_succ, Nat.pow_succ]
      rw [Nat.mul_comm (2 ^ m) 2, ← Nat.div_div_eq_div_mul]
      have half : (flagCode a + 2 * bitsValue l) / 2 = bitsValue l := by omega
      rw [half]
      exact ih m

/-- State `o` of packed states is bit o mod 8 of byte o / 8. -/
theorem packBits_bit (k : Nat) (l : List Bool) (o : Nat) (h : o < 8 * k) :
    field (packBits k l) (o / 8) 1 / 2 ^ (o % 8) % 2 = flagCode (l.getD o false) := by
  induction k generalizing l o with
  | zero => omega
  | succ j ih =>
    unfold packBits
    by_cases small : o < 8
    · have first : o / 8 = 0 := by omega
      have fits : bitsValue (l.take 8) < 2 ^ 8 :=
        Nat.lt_of_lt_of_le (bitsValue_lt _) (Nat.pow_le_pow_right (by decide) (by simp))
      rw [first, Nat.mod_eq_of_lt small]
      unfold field
      simp only [List.drop_zero, List.take_succ_cons, List.take_zero, leValue, BitVec.toNat_ofNat]
      rw [Nat.mul_zero, Nat.add_zero, Nat.mod_eq_of_lt fits, bitsValue_bit]
      simp only [List.getD_eq_getElem?_getD, List.getElem?_take, small, if_true]
    · have later := ih (l.drop 8) (o - 8) (by omega)
      have tail :
          field (BitVec.ofNat 8 (bitsValue (l.take 8)) :: packBits j (l.drop 8)) ((o - 8) / 8 + 1) 1 =
            field (packBits j (l.drop 8)) ((o - 8) / 8) 1 := rfl
      rw [show o / 8 = (o - 8) / 8 + 1 by omega, tail, show o % 8 = (o - 8) % 8 by omega, later]
      simp only [List.getD_eq_getElem?_getD, List.getElem?_drop]
      congr 3
      omega

/-! ### Lists of fields -/

theorem carries_cons (bytes : List Byte) (start size value : Nat) (fields : List (Nat × Nat × Nat)) :
    Carries bytes ((start, size, value) :: fields) ↔
      (value < 256 ^ size → field bytes start size = value) ∧ Carries bytes fields := by
  unfold Carries
  exact List.forall_mem_cons

theorem carries_nil (bytes : List Byte) : Carries bytes [] := by
  intro f hf
  cases hf


/-! ### Whole layouts -/

theorem statusItems_length (b : Block) : (statusItems b).length = 93 := by
  unfold statusItems
  simp only [List.length_append, le_length, leSigned_length, byte_length, packBits_length, unknownOr_length, Four.toList,
    pointerBytes, List.flatMap_cons, List.flatMap_nil, List.length_nil]

theorem recordBytes_length (r : ParticleRecord) : (recordBytes r).length = 121 := by
  unfold recordBytes
  simp only [List.length_append, le_length, byte_length, slotBytes_length, Four.toList, List.flatMap_cons,
    List.flatMap_nil, List.length_nil]

end Sys2Proof.Machine
end

