-- ==== Sys2Proof/Laws/Operands.lean ====
section
/-! SUPPORT. What the readers and range checks of request payloads decide, and the pointer's path as iterates of its
move. -/

namespace Sys2Proof.Machine

/-! ### Entries (R55, R66, R182) -/

theorem field_one_lt (l : List Byte) (start : Nat) : field l start 1 < 256 := by
  unfold field
  cases l.drop start with
  | nil => decide
  | cons b rest =>
    have := b.isLt
    simpa [leValue] using this

/-- The decoder of route entries reads an entry exactly where the bytes spell it. -/
theorem routeOf_eq_some (bytes : List Byte) (r : RouteEntry) : routeOf bytes = some r ↔ SpellsRoute bytes r := by
  have small := field_one_lt bytes 0
  have smaller := field_one_lt bytes 1
  have code : field bytes 0 1 / 16 % 4 < 4 := Nat.mod_lt _ (by decide)
  unfold routeOf
  simp only [bitsAt, Nat.pow_zero, Nat.div_one, Nat.pow_one, Nat.reducePow]
  constructor
  · intro h
    obtain ⟨d, hd, rfl⟩ := Option.map_eq_some_iff.mp h
    have kind : (field bytes 0 1 / 16 % 4, d) ∈ [(0, Delivery.fixed), (1, .leastLoaded), (2, .all)] := by
      generalize field bytes 0 1 / 16 % 4 = c at hd code
      match c with
      | 0 | 1 | 2 => cases hd; decide
      | 3 => cases hd
    refine ⟨?_, kind, ?_, ?_, rfl, ?_, rfl, rfl⟩
    · intro st
      fin_cases st <;> simp [Four.get]
    · rcases Nat.mod_two_eq_zero_or_one (field bytes 0 1 / 64) with e | e <;> simp [e]
    · simp
    · simp
  · intro h
    obtain ⟨⟨s0, s1, s2, s3⟩, d, a, p, x, m, f, g⟩ := r
    obtain ⟨stations, delivery, action, report, priority, hold, pattern, confidence⟩ := h
    simp only at stations delivery action report priority hold pattern confidence
    have b0 := stations 0
    have b1 := stations 1
    have b2 := stations 2
    have b3 := stations 3
    simp only [Four.get, Fin.val_zero, Nat.pow_zero, Nat.div_one, Fin.val_one, Nat.pow_one, Fin.val_two, Nat.reducePow,
      Fin.isValue] at b0 b1 b2
    replace b3 : s3 = true ↔ field bytes 0 1 / 8 % 2 = 1 := b3
    refine Option.map_eq_some_iff.mpr ⟨d, ?_, ?_⟩
    · simp only [List.mem_cons, Prod.mk.injEq, List.not_mem_nil, or_false] at delivery
      rcases delivery with ⟨c, rfl⟩ | ⟨c, rfl⟩ | ⟨c, rfl⟩ <;> rw [c] <;> rfl
    · simp only [List.mem_cons, Prod.mk.injEq, List.not_mem_nil, or_false] at action
      have asBool (u : Bool) (n : Nat) (h : u = true ↔ n = 1) : (n == 1) = u := by
        cases u <;> simp_all
      rw [asBool _ _ b0, asBool _ _ b1, asBool _ _ b2, asBool _ _ b3, asBool _ _ report, asBool _ _ hold, priority,
        pattern, confidence]
      rcases action with ⟨c, rfl⟩ | ⟨c, rfl⟩ <;> simp [c]

/-- At most one of four flags is on. -/
theorem count_le_one_iff (s0 s1 s2 s3 : Bool) :
    ((⟨s0, s1, s2, s3⟩ : Four Bool).toList.filter id).length ≤ 1 ↔
      ∀ st other, (⟨s0, s1, s2, s3⟩ : Four Bool).get st = true → (⟨s0, s1, s2, s3⟩ : Four Bool).get other = true →
        other = st := by
  revert s0 s1 s2 s3
  decide

/-- The flags that are on are none, or at least two. -/
theorem count_ne_one_iff (s0 s1 s2 s3 : Bool) :
    ((⟨s0, s1, s2, s3⟩ : Four Bool).toList.filter id).length ≠ 1 ↔
      ∀ st, (⟨s0, s1, s2, s3⟩ : Four Bool).get st = true →
        ∃ other, other ≠ st ∧ (⟨s0, s1, s2, s3⟩ : Four Bool).get other = true := by
  revert s0 s1 s2 s3
  decide

theorem routeValid_iff (part : Partition) (r : RouteEntry) : routeValid part r = true ↔ GoodRoute part r := by
  obtain ⟨⟨s0, s1, s2, s3⟩, d, a, p, x, m, f, g⟩ := r
  simp only [routeValid, Bool.and_eq_true, decide_eq_true_eq]
  constructor
  · rintro ⟨⟨⟨agrees, priority⟩, pattern⟩, confidence⟩
    refine ⟨?_, ?_, priority, pattern, confidence⟩
    · intro hd
      simp only at hd
      subst hd
      exact (count_le_one_iff s0 s1 s2 s3).mp (of_decide_eq_true agrees)
    · intro hd
      simp only at hd
      subst hd
      exact (count_ne_one_iff s0 s1 s2 s3).mp (bne_iff_ne.mp agrees)
  · rintro ⟨fixed, least, priority, pattern, confidence⟩
    refine ⟨⟨⟨?_, priority⟩, pattern⟩, confidence⟩
    cases d with
    | fixed => exact decide_eq_true ((count_le_one_iff s0 s1 s2 s3).mpr (fixed rfl))
    | leastLoaded => exact bne_iff_ne.mpr ((count_ne_one_iff s0 s1 s2 s3).mpr (least rfl))
    | all => rfl

theorem patternValid_iff (x : Pattern) : patternValid x = true ↔ GoodPattern x := by
  simp only [patternValid, Bool.and_eq_true, decide_eq_true_eq]
  constructor
  · rintro ⟨⟨⟨⟨⟨⟨⟨a, b⟩, c⟩, d⟩, e⟩, f⟩, g⟩, h⟩
    exact ⟨a, b, c, ⟨d, e⟩, ⟨f, g⟩, h⟩
  · rintro ⟨a, b, c, ⟨d, e⟩, ⟨f, g⟩, h⟩
    exact ⟨⟨⟨⟨⟨⟨⟨a, b⟩, c⟩, d⟩, e⟩, f⟩, g⟩, h⟩

/-! ### Station records (R110) -/

theorem stationSettingsOk_iff (c : StationSettings) :
    stationSettingsOk c = true ↔ GoodRecord (maxChannels c.kind) c := by
  simp only [stationSettingsOk, Bool.and_eq_true, decide_eq_true_eq]
  constructor
  · intro h
    constructor <;> omega
  · rintro ⟨a, b, d, e, f, g, h, i, j, k, l, m⟩
    omega

theorem rangesShare_iff (c d : StationSettings) :
    rangesShare c d = true ↔
      c.kind ≠ .none ∧ d.kind ≠ .none ∧ c.firstOutput < d.firstOutput + d.channels ∧
        d.firstOutput < c.firstOutput + c.channels := by
  simp only [rangesShare, Bool.and_eq_true, decide_eq_true_eq, bne_iff_ne, ne_eq, and_assoc]

/-! ### The pointer's path (R160) -/

theorem pointerPath_eq (part : Partition) (n : Nat) (p : Pointer) :
    pointerPath part n p = (List.range n).map fun i => (Pointer.move part)^[i] p := by
  induction n generalizing p with
  | zero => rfl
  | succ k ih =>
    rw [pointerPath, ih, List.range_succ_eq_map, List.map_cons, List.map_map]
    rfl

theorem pointerAfter_eq (part : Partition) (n : Nat) (p : Pointer) :
    pointerAfter part n p = (Pointer.move part)^[n] p := by
  induction n generalizing p with
  | zero => rfl
  | succ k ih => rw [pointerAfter, ih, Function.iterate_succ_apply]

end Sys2Proof.Machine
end

