-- ==== Sys2Proof/WellFormed.lean ====
section
/-! DEFINITION. Which commands can come from the outside of a JT-460 as the spec describes it. -/

namespace Sys2Proof

/-- A refresh shifts at most 128 output states and the sixteen states of the marker, so no more states than that
come back (R127, chapter 11 section 7). -/
def chainReturnOk (r : List Bool) : Bool := r.length ≤ 144

/-- A census makes sixteen trial exchanges of 128 states and the marker, so the marker can come back whole after at
most 128 states (R129). -/
def trialsOk (t : List (Option Nat)) : Bool :=
  t.length == 16 && t.all fun
    | none => true
    | some n => n ≤ 128

/-- The checks on a command's operands; every other command has operands of types that hold only legal values. -/
def Instr.wellFormed (i : Instr) : Bool :=
  match i with
  | .encoderCount _ _ r => chainReturnOk r
  | .refreshTimerExpiry r => chainReturnOk r
  | .censusEnd t => trialsOk t
  | .speedGateExpiry | .beacon | .detectionByte _ | .detectionGapTimeout | .take | .loadEnd | .settleExpiry _
  | .plantInputLevelChange _ _ | .haltAssertion | .haltRelease | .airLowChange | .keyChange | .controlByte _ _
  | .controlGapTimeout | .transmitComplete | .unknownKind | .identify | .status | .lineRun | .lineStandbyDrain
  | .lineStandbyFlush | .lineSet | .stationSet | .arm | .disarm | .floor | .clearChannel | .select | .write | .read
  | .releaseHolds | .rankReset | .partition | .cancel | .amend | .trackQuery | .listRead | .tallyRead | .save
  | .saveEnd _ | .restore | .restoreEnd | .lockOpen | .lockKeyed | .lockSealed | .purgeStart | .purgeSuspend
  | .purgeResume | .purgeAbort | .purgeShotEnd | .purgeGapEnd | .calibrate | .clearFault | .restart | .powerOn
  | .supplyDip | .resetLineAssert | .resetLineRelease | .resetEnd | .supplyRisesAboveResetThreshold => true

end Sys2Proof
end

