-- ==== Sys2Proof/Tests/Slice0.lean ====
section
/-! SUPPORT. The model's own tests: ill-formed commands are refused, the check value, a state and operands that meet the
hypotheses of each statement, and small tests of one command each. -/

open Sys2Proof Sys2Proof.Machine

namespace Sys2Proof.Tests

-- One test at a time: some seventy kernel evaluations side by side ask for more threads than the memory limit holds.
set_option Elab.async false

/-! ### Well-formed commands -/

theorem test_long_chain_return_is_ill_formed :
    (Instr.encoderCount true false (List.replicate 145 true)).wellFormed = false ∧
      (Instr.refreshTimerExpiry (List.replicate 145 true)).wellFormed = false ∧
      (Instr.refreshTimerExpiry (List.replicate 144 true)).wellFormed = true := by decide +kernel

theorem test_fifteen_trials_are_ill_formed :
    (Instr.censusEnd (List.replicate 15 none)).wellFormed = false ∧
      (Instr.censusEnd (List.replicate 17 none)).wellFormed = false ∧
      (Instr.censusEnd (List.replicate 16 none)).wellFormed = true := by decide

theorem test_a_marker_after_129_states_is_ill_formed :
    (Instr.censusEnd (some 129 :: List.replicate 15 (some 64))).wellFormed = false ∧
      (Instr.censusEnd (some 128 :: List.replicate 15 (some 64))).wellFormed = true := by decide

theorem test_no_word_spells_a_command : decodeTableWord 8 0x11 = none := rfl

/-! ### Check value (R181) -/

theorem test_check_value_of_123456789 :
    crc16 [0x31#8, 0x32#8, 0x33#8, 0x34#8, 0x35#8, 0x36#8, 0x37#8, 0x38#8, 0x39#8] = 0x29B1#16 := by decide +kernel

/-! ### Small states -/

/-- The state a command answers. -/
def after (c : Instr) (s : State) : State :=
  match exec c s with
  | .next t => t
  | .fault _ => s
  | .refused _ => s

/-- STANDBY, two boards, nothing armed. -/
def ready : State :=
  { State.reset with
    clock := 1000000
    line := { State.reset.line with state := .standby }
    chain := { State.reset.chain with boards := 2, censusOk := true, refreshStart := some 0 }
    store := { State.reset.store with loading := false }
    intake := { State.reset.intake with ready := true } }

/-- A NOZZLE station of four channels from output 0. -/
def nozzle : StationSettings := { StationSettings.initial with kind := .nozzle, channels := 4, concurrency := 4 }

/-- Class 1 goes to station 0 with priority 3. -/
def routed : List RouteEntry :=
  (List.replicate 64 RouteEntry.initial).set 1
    { RouteEntry.initial with stations := ⟨true, false, false, false⟩, priority := 3 }

/-- STANDBY with station 0 ARMED. -/
def working : State :=
  { ready with
    settings := { ready.settings with stations := ready.settings.stations.set 0 nozzle, routes := routed }
    stations := ready.stations.set 0 { Station.afterReset with state := .armed, enable := true } }

/-- RUN with station 0 ARMED. -/
def running : State := { working with line := { working.line with state := .run } }

/-- A record of class 1 with a WAITING slot at station 0. -/
def piece : ParticleRecord :=
  { tag := 5, cls := 1, position := 1000, length := 16, firstLane := 0, lastLane := 7, confidence := 200, action := .eject
    priority := 3, pattern := 0, delivery := .fixed, report := false
    slots := ⟨some ⟨.waiting, 90, none, SlotFlags.clear⟩, none, none, none⟩ }

/-- RUN with one record in the table. -/
def tracking : State := { running with track := { running.track with table := [piece] } }

/-- The record with its slot in another state. -/
def pieceAt (x : SlotState) : ParticleRecord :=
  { piece with slots := ⟨some ⟨x, 90, some ⟨100, 104, 0, 0, 1, 0⟩, SlotFlags.clear⟩, none, none, none⟩ }

/-- RUN with the record's one entry on the list of station 0. -/
def listed (x : SlotState) (y : EntryState) : State :=
  { running with
    track := { running.track with table := [pieceAt x] }
    lists := running.lists.set 0 [⟨0, 100, 104, .eject, 3, [5], y⟩] }

/-- The state with one frame in the receive buffer. -/
def asked (s : State) (kind : Byte) (p : List Byte) : State := { s with msg := { s.msg with buffer := [⟨kind, p⟩] } }

/-- The line in another state. -/
def inLine (s : State) (x : LineState) : State := { s with line := { s.line with state := x } }

theorem asked_serving {s : State} (kind : Byte) (p : List Byte) (h : s.resetting = none) (k : s.msg.inHand = none) :
    Serving (asked s kind p) kind p [] := ⟨h, k, rfl⟩

/-! ### The two invariants have states that are not the reset state -/

theorem running_shaped : running.toBlock.Shaped where
  backlash := by decide
  intakeQueue := by decide
  receiveBuffer := by decide
  reportQueue := by decide
  reportNumber := by decide
  ranks := by decide
  boards := by decide
  outputs := by decide +kernel
  feedback := by decide +kernel
  working := ⟨by decide, by decide, by decide⟩
  image := ⟨by decide, by decide, by decide⟩
  copy := by
    intro c h
    cases (show StoreActivity.idle = .saving c from h)
  channels := by decide
  enable := by decide
  faultCause := by decide

theorem tracking_kept : tracking.toBlock.Tracking where
  inReset := by decide
  inLoad := by decide
  startup := by decide
  restoring := by decide
  emptyTable := by decide
  emptyList := by decide
  tags := by decide
  capacity := by decide
  order := by decide
  listCapacity := by decide
  pointer := by decide

/-! ### States and operands that meet the hypotheses of the statements -/

/-- An empty queue, within the time base's range and at its end. -/
theorem test_hypotheses_StepRunsTheFrontCommand :
    ready.pending = [] ∧ ready.clock < Config.clockMax ∧
      ¬({ ready with clock := Config.clockMax } : State).clock < Config.clockMax := by decide

theorem test_hypotheses_EveryStepKeepsShape :
    ∃ t, running.toBlock.Shaped ∧ step { running with pending := [.speedGateExpiry] } = .next t :=
  ⟨_, running_shaped, rfl⟩

theorem test_hypotheses_EveryStepKeepsTracking :
    ∃ t, tracking.toBlock.Tracking ∧ step { tracking with pending := [.beacon] } = .next t :=
  ⟨_, tracking_kept, rfl⟩

/-- A crossing at X = 7, a reverse count within the limit, a count in STARTUP; a reverse count that leaves backlash above
the limit in STANDBY, HALT and FAULT; a skipped state and a reset. -/
theorem test_hypotheses_CountMovesNetAndScan :
    (∃ s : State, s = { running with pos := { running.pos with n := 7, x := 7 } } ∧ s.resetting = none ∧
      s.pos.n ≤ s.pos.x ∧ -Config.netMax < s.pos.n ∧ s.pos.n < Config.netMax ∧
      decodeCount s.encA s.encB true false = some true ∧ (s.pos.x + 1) % s.settings.sliceLength = 0 ∧
      decodeCount s.encA s.encB false true = some false ∧ s.pos.x - s.pos.n + 1 ≤ s.settings.reverseLimit) ∧
    (State.reset.line.state = .startup ∧ decodeCount State.reset.encA State.reset.encB true false = some true) ∧
    (∀ line ∈ [LineState.standby, .halt, .fault], ∃ s : State,
      s = inLine { running with pos := { running.pos with n := -64 } } line ∧ s.resetting = none ∧
      s.pos.n ≤ s.pos.x ∧ -Config.netMax < s.pos.n ∧ decodeCount s.encA s.encB false true = some false ∧
      s.line.state ≠ .run ∧ s.line.state ≠ .draining ∧ (s.settings.reverseLimit : Int) < s.pos.x - (s.pos.n - 1)) ∧
    decodeCount running.encA running.encB true true = none ∧
    { running with resetting := some ⟨0, true, false, false, none⟩ }.resetting ≠ none := by
  refine ⟨⟨_, rfl, ?_⟩, ?_, ?_, ?_, ?_⟩
  · decide +kernel
  · decide +kernel
  · intro line h
    refine ⟨_, rfl, ?_⟩
    revert line
    decide +kernel
  · decide +kernel
  · decide

/-- Backlash 64 at the limit of 64: the next reverse count is the one beyond it. -/
theorem test_hypotheses_ReverseBeyondTheLimitFaultsTheLine :
    ∃ s : State, s = { running with pos := { running.pos with n := -64 } } ∧ s.toBlock.Shaped ∧ s.resetting = none ∧
      (s.line.state = .run ∨ s.line.state = .draining) ∧ -Config.netMax < s.pos.n ∧
      decodeCount s.encA s.encB false true = some false ∧
      (s.settings.reverseLimit : Int) < s.pos.x - s.pos.n + 1 :=
  ⟨_, rfl, { running_shaped with backlash := by decide }, by decide +kernel⟩

/-- A gate at exactly the threshold 205 × 8 in RUN, one below it, and one in STARTUP. -/
theorem test_hypotheses_GateExpiryMeasuresSpeed :
    (∃ s : State, s = { running with pos := { running.pos with n := 1640, x := 1640 } } ∧ s.toBlock.Shaped ∧
      s.resetting = none ∧ s.pos.gateStart + 8192 ≤ s.clock ∧
      205 * s.settings.sliceLength ≤ min (s.pos.n - s.pos.gateNet).toNat 65535) ∧
    (running.toBlock.Shaped ∧ min (running.pos.n - running.pos.gateNet).toNat 65535 < 205 * running.settings.sliceLength) ∧
    State.reset.line.state ≠ .run :=
  ⟨⟨_, rfl, { running_shaped with backlash := by decide }, by decide +kernel⟩, ⟨running_shaped, by decide⟩, by decide⟩

theorem test_hypotheses_BeaconCarriesScanSpeedAndState :
    ∃ s : State, s = { running with pos := { running.pos with beaconStart := some 999000 } } ∧ s.resetting = none ∧
      s.pos.beaconStart = some 999000 ∧ 999000 + 1000 ≤ s.clock := ⟨_, rfl, by decide +kernel⟩

/-- An entry that ends and one that starts at the same crossing; a slot with its last entry, and one that waits; a FINAL
slot and an absent one. -/
theorem test_hypotheses_CrossingEndsAndStartsEntries :
    (∃ b : Block,
      b =
        { (listed .active (.active 0 false)).toBlock with
          lists :=
            running.lists.set 0
              [⟨0, 100, 104, .eject, 3, [5], .active 0 false⟩, ⟨1, 104, 108, .eject, 3, [5], .committed⟩] } ∧
      ∃ e ∈ (startAtCrossing 0 104 (endAtCrossing 0 104 b)).lists.get 0, e.onSlice = 104) ∧
    (∃ (sl : Slot) (g : Figures), (pieceAt .active).slots.get 0 = some sl ∧ sl.state = .active ∧ sl.figures = some g ∧
      g.entries ≤ 1) ∧
    (∃ sl : Slot, piece.slots.get 0 = some sl ∧ sl.state = .waiting) ∧
    (∃ sl : Slot, (pieceAt (.final .aborted)).slots.get 0 = some sl ∧ sl.state = .final .aborted) ∧
    piece.slots.get 3 = none ∧
    ((inLine running .draining).line.state = .draining ∧ (inLine running .draining).track.table = []) := by
  refine ⟨⟨_, rfl, ⟨1, 104, 108, .eject, 3, [5], .active 1000000 false⟩, ?_⟩, ⟨_, _, rfl, rfl, rfl, by decide⟩,
    ⟨_, rfl, rfl⟩, ⟨_, rfl, rfl⟩, rfl, by decide⟩
  decide +kernel

/-- SEEKING and STARTUP; in IN_FRAME the least and the largest length byte, the record byte that has the value of the start
byte, and the first check byte of the longest frame, each at the last moment. -/
theorem test_hypotheses_DetectionReceiverSeeksTheStartByte :
    (running.resetting = none ∧ running.line.state ≠ .startup ∧ running.intake.receiver = .seeking) ∧
    State.reset.line.state = .startup ∧
    (∀ bytes : List Byte, ∃ s : State,
      s = { running with intake := { running.intake with receiver := .inFrame bytes 999800 } } ∧ s.resetting = none ∧
      s.line.state ≠ .startup ∧ s.intake.receiver = .inFrame bytes 999800 ∧ s.clock ≤ 999800 + 200) ∧
    (([] : List Byte) ++ [10#8] = 10#8 :: [] ∧ [] ++ [80#8] = 80#8 :: ([] : List Byte) ∧
      ([10#8] ++ [0xD3#8] = 10#8 :: [0xD3#8] ∧ [0xD3#8].length ≤ (10#8).toNat + 1) ∧
      (80#8 :: List.replicate 80 0#8 ++ [7#8] = 80#8 :: (List.replicate 80 0#8 ++ [7#8]) ∧
        (List.replicate 80 0#8 ++ [7#8]).length ≤ (80#8).toNat + 1) ∧
      (10#8).toNat ∈ [10, 20, 30, 40, 50, 60, 70, 80] ∧ (80#8).toNat ∈ [10, 20, 30, 40, 50, 60, 70, 80]) :=
  ⟨by decide +kernel, rfl,
    fun _ => ⟨_, rfl, rfl, (by decide : running.line.state ≠ .startup), rfl, (by decide : 1000000 ≤ 999800 + 200)⟩,
    by decide +kernel⟩

/-- The bytes of a detection frame of one record, with the check value the frame's. -/
def goodBytes : List Byte := 10#8 :: List.replicate 10 0#8

def goodCheck : Byte × Byte := ((crcBytes goodBytes).headD 0#8, ((crcBytes goodBytes).drop 1).headD 0#8)

/-- A frame of one record onto a queue of 63, the last place. -/
theorem test_hypotheses_GoodDetectionFrameIsQueued :
    ∃ s : State,
      s =
        { running with
          intake :=
            { running.intake with
              queue := List.replicate 63 (detectionOf []), receiver := .inFrame (goodBytes ++ [goodCheck.1]) 999800 } } ∧
      s.resetting = none ∧ s.line.state ≠ .startup ∧ s.intake.queue.length ≤ 64 ∧
      s.intake.receiver = .inFrame (10#8 :: List.replicate 10 0#8 ++ [goodCheck.1]) 999800 ∧
      s.clock ≤ 999800 + 200 ∧ (List.replicate 10 0#8).length = (10#8).toNat ∧
      (10#8).toNat ∈ [10, 20, 30, 40, 50, 60, 70, 80] ∧ crcBytes goodBytes = [goodCheck.1, goodCheck.2] ∧
      s.intake.tallies.received + 8 ≤ Config.tallyMax ∧ s.intake.tallies.queueFull + 8 ≤ Config.tallyMax :=
  ⟨_, rfl, by decide +kernel⟩

/-- One microsecond past the gap; a length of 11; a wrong last check byte. -/
theorem test_hypotheses_BadDetectionFrameIsDiscarded :
    (∃ s : State, s = { running with intake := { running.intake with receiver := .inFrame [] 999799 } } ∧
      s.resetting = none ∧ s.line.state ≠ .startup ∧ s.intake.receiver = .inFrame [] 999799 ∧ 999799 + 200 < s.clock) ∧
    (∃ s : State, s = { running with intake := { running.intake with receiver := .inFrame [] 999800 } } ∧
      s.clock ≤ 999800 + 200 ∧ (11#8).toNat ∉ [10, 20, 30, 40, 50, 60, 70, 80]) ∧
    crcBytes goodBytes ≠ [goodCheck.1, goodCheck.2 ^^^ 1#8] :=
  ⟨⟨_, rfl, by decide +kernel⟩, ⟨_, rfl, by decide +kernel⟩, by decide +kernel⟩

/-- A detection of class 1, its stamp 1,000, with X at 1,000. -/
def seen : DetectionRecord := ⟨9, 1000, 200, 16, 1, 0, 7⟩

/-- RUN with `seen` at the head of the queue and X at 1,000. -/
def detecting : State :=
  { running with
    pos := { running.pos with n := 1000, x := 1000, slice := 90 }
    settings :=
      { running.settings with
        stations := running.settings.stations.set 0 { nozzle with leadDistance := 800, horizon := 32 } }
    intake := { running.intake with queue := [seen], lastTake := some 999980 } }

theorem test_hypotheses_TakeGivesOneDisposition :
    detecting.settings.routes[63]? = some RouteEntry.initial ∧ detecting.resetting = none ∧ detecting.line.state ≠ .startup ∧ detecting.intake.queue = seen :: [] ∧
      (∀ last, detecting.intake.lastTake = some last → last + 20 ≤ detecting.clock) := by
  refine ⟨by decide +kernel, rfl, by decide, rfl, ?_⟩
  intro last h
  cases (show some 999980 = some last from h)
  decide

/-- The same piece under LEAST_LOADED, in slice 200: its commit at the station chosen is due at once. -/
def choosing : State :=
  { detecting with
    pos := { detecting.pos with slice := 200 }
    settings :=
      { detecting.settings with
        routes :=
          detecting.settings.routes.set 1
            { RouteEntry.initial with stations := ⟨true, true, false, false⟩, priority := 3, delivery := .leastLoaded } } }

theorem test_hypotheses_AdmissionPlacesTheRecord :
    (dispositionOf detecting.toBlock seen = .admitted ∧ rebuild detecting.pos.x seen.stamp = ((1000 : Nat) : Int) ∧
      (∀ st sl, (createSlots detecting.toBlock (detecting.toBlock.route seen.cls) 1000).1.get st = some sl →
        sl.state = .waiting → (detecting.pos.slice : Int) < sl.commitSlice) ∧
      (∀ q ∈ detecting.track.table, q.finished = false)) ∧
    (dispositionOf choosing.toBlock seen = .admitted ∧ chooseStation choosing.toBlock (choosing.toBlock.route 1) = some 0 ∧
      commitSliceOf choosing.toBlock 0 1000 ≤ (choosing.pos.slice : Int)) := by
  refine ⟨⟨by decide +kernel, by decide +kernel, ?_, by decide +kernel⟩, by decide +kernel⟩
  intro st sl h hw
  have all : ∀ st, ((createSlots detecting.toBlock (detecting.toBlock.route seen.cls) 1000).1.get st).all
      (fun sl => decide (sl.state = .waiting → (detecting.pos.slice : Int) < sl.commitSlice)) = true := by decide +kernel
  have one := all st
  rw [h] at one
  exact of_decide_eq_true one hw

theorem test_hypotheses_RebuiltPositionIsTheOneInTheWindow :
    (0 < 16777216 ∧ 16777215 < 16777216) ∧ rebuild 16777216 16777215 = 16777215 ∧ rebuild 16777216 0 = 16777216 ∧ rebuild 5 6 = -16777210 := by decide

/-- Ranks that rotate and ranks that stay; a record that an AMEND may rebuild, and one that it may not. -/
theorem test_hypotheses_ChoiceRotatesTheRanks :
    ((∀ st, (piece.slots.get st).all (fun sl => sl.state = .waiting) = true) ∧
      (pieceAt .committed).slots.get 0 = some ⟨.committed, 90, some ⟨100, 104, 0, 0, 1, 0⟩, SlotFlags.clear⟩ ∧
      (tracking.toBlock.route 1).hold = false ∧ (tracking.toBlock.route 1).stations.get 0 = true ∧
      (tracking.toBlock.route 1).minConfidence ≤ piece.confidence ∧
      ∀ st, (tracking.toBlock.route 0).stations.get st = false) ∧
    (⟨2, 0, 3, 1⟩ : Four Nat).toList.Perm [0, 1, 2, 3] ∧ rotateRanks ⟨2, 0, 3, 1⟩ 2 = ⟨3, 1, 0, 2⟩ ∧
      rotateRanks ⟨2, 0, 3, 1⟩ 1 = ⟨2, 0, 3, 1⟩ := by decide +kernel

/-- Two ARMED stations with equal lists: the one of higher rank; with none ARMED, none. -/
theorem test_hypotheses_ChoiceTakesTheShortestList :
    ∃ (b : Block) (e : RouteEntry),
      b = { running.toBlock with stations := running.stations.set 2 (running.stations.get 0) } ∧
      e = { RouteEntry.initial with stations := ⟨true, true, true, false⟩ } ∧ chooseStation b e = some 2 ∧
      chooseStation State.reset.toBlock e = none :=
  ⟨_, _, rfl, rfl, by decide +kernel⟩

/-- Stages c to f on small numbers; then a piece from 1,000 to 1,016 with S = 8: a lead that leaves b = 0, one that leaves
b = 1 and misses in slice 0, and none, with the first switchable slice at the on slice and at the off slice. -/
theorem test_hypotheses_SpanStagesFollowTheArithmetic :
    (0 < 8 ∧ 15 < 16 ∧ 10 < 11 ∧ 1 ≤ 4 ∧ 1 ≤ 3) ∧ (15 / 8 = 1 ∧ ceilDiv 16 8 = 2) ∧ lengthened 10 11 4 = 14 ∧ capped 10 14 3 = 13 ∧ lateOn 10 13 9 = some 10 ∧
      lateOn 10 13 10 = some 11 ∧ lateOn 10 13 12 = none ∧
    (1 ≤ pattern0.minOn ∧ 1 ≤ pattern0.maxOn ∧ 1 ≤ nozzle.maxOn ∧ 1016 * 8192 ≤ 8192 * 1016 ∧
      8192 * 1016 < 1016 * 8192 + 8192 ∧ (1000 : Int) + 16 + 0 + 0 - 1016 ≤ 0) ∧
    ((0 : Int) < 1000 + 16 + 0 + 0 - 1015 ∧ (0 : Nat) = (max (-15 : Int) 0).toNat / 8 ∧
      ((1 : Int) ≤ (1 * 8 : Nat) ∧ ((1 * 8 : Nat) : Int) < 1 + 8) ∧ max 0 (0 + 1) ≥ min (max 1 (0 + 1)) (0 + 64)) ∧
    ((0 : Int) < 1016 ∧ (125 : Nat) = (max (1000 : Int) 0).toNat / 8 ∧
      ((1016 : Int) ≤ (127 * 8 : Nat) ∧ ((127 * 8 : Nat) : Int) < 1016 + 8) ∧
      max 125 (124 + 1) < min (max 127 (125 + 1)) (125 + 64) ∧ max 125 (126 + 1) ≥ min (max 127 (125 + 1)) (125 + 64)) := by
  decide

/-- A newcomer of priority 3 displaces a COMMITTED entry of priority 2 of another kind; an entry is written between one of
its on slice on a lower channel and one on a higher. -/
theorem test_hypotheses_SettledCommitKeepsCapacityAndAir :
    insertEntry ⟨1, 100, 104, .eject, 3, [5], .committed⟩
        [⟨0, 100, 104, .eject, 3, [5], .committed⟩, ⟨2, 100, 104, .eject, 3, [5], .committed⟩] =
      [⟨0, 100, 104, .eject, 3, [5], .committed⟩, ⟨1, 100, 104, .eject, 3, [5], .committed⟩,
        ⟨2, 100, 104, .eject, 3, [5], .committed⟩] ∧
    findRecord 5 [piece] = some piece ∧
    ∃ (t : List ParticleRecord) (l : List Entry) (plan : Plan) (x : Settlement),
      l = [⟨0, 100, 104, .shield, 2, [7], .committed⟩] ∧
      t = [piece, { pieceAt .committed with tag := 7, priority := 2, action := .shield }] ∧
      plan = ⟨102, 106, 0, 0, SlotFlags.clear, [⟨0, 102, 106, .eject, 3, [5], .committed⟩]⟩ ∧
      (∀ n ∈ plan.newcomers, n.kind = piece.action) ∧ settleCommit t l nozzle 512 0 piece plan = .ok x ∧
      x.list.length = 1 ∧ x.displaced = [7] :=
  ⟨by decide +kernel, by decide +kernel, _, _, _,
    ⟨[⟨0, 102, 106, .eject, 3, [5], .committed⟩], [7], [⟨⟨0, 102, 106, .eject, 3, [5], .committed⟩, false⟩]⟩, rfl, rfl, rfl, by decide +kernel, by rfl, rfl, rfl⟩

/-- A station that is not ARMED, a floor at the priority, a NOZZLE station whose low-air floor alone reaches it while AIR-LOW
is asserted, a commit in time and one too late, a pattern code past the last, and a commit that passes every check. -/
theorem test_hypotheses_FirstTwoChecksEndTheSlot :
    findRecord 5 tracking.track.table = some piece ∧
      piece.slots.get 0 = some ⟨.waiting, 90, none, SlotFlags.clear⟩ ∧
      (tracking.toBlock.station 0).state = .armed ∧ piece.action = .eject ∧
      (∃ b : Block,
        b = { tracking.toBlock with settings := { tracking.settings with floors := Four.all4 ⟨3, 15⟩ } } ∧
        b.line.airLow.taken = false ∧ piece.priority ≤ (b.settings.floors.get 0).floor) ∧
      (∃ b : Block,
        b =
          { tracking.toBlock with
            settings := { tracking.settings with floors := Four.all4 ⟨0, 3⟩ }
            line := { tracking.line with airLow := ⟨true, true, none⟩ } } ∧
        (b.settings.stations.get 0).kind = .nozzle ∧ b.line.airLow.taken = true ∧
        (b.settings.floors.get 0).floor < piece.priority ∧
        piece.priority ≤ max (b.settings.floors.get 0).floor (b.settings.floors.get 0).lowAir) ∧
      (tracking.settings.floors.get 0).floor < piece.priority ∧ (tracking.toBlock.station 1).state ≠ .armed ∧
      (tracking.settings.patterns.length = tracking.settings.partition.ramPatterns ∧
        patternAt tracking.settings piece.pattern = some ⟨0, 0, 0, 1, 4095⟩ ∧
        patternAt tracking.settings (8 + tracking.settings.partition.ramPatterns) = none) ∧
      (∃ f, planCommit piece nozzle pattern0 true (tracking.toBlock.station 0).channels 1000 0 8 = .error (.missed, f)) ∧
      ∃ plan x, planCommit piece nozzle pattern0 true (tracking.toBlock.station 0).channels 90 0 8 = .ok plan ∧
        settleCommit tracking.track.table [] nozzle 512 0 piece plan = .ok x ∧ x.list.length = 1 :=
  ⟨rfl, rfl, rfl, rfl, ⟨_, rfl, by decide +kernel⟩, ⟨_, rfl, by decide +kernel⟩, by decide +kernel, by decide,
    by decide +kernel, ⟨_, by rfl⟩, ⟨_, _, by rfl, by rfl, by rfl⟩⟩

/-- An entry that loses one tag and keeps another, one that loses its only tag, and one that loses none. -/
theorem test_hypotheses_WithdrawalTakesTheTagsOut :
    withdrawTags [piece] [7] [⟨0, 100, 104, .eject, 9, [5, 7], .committed⟩, ⟨1, 100, 104, .eject, 9, [7], .committed⟩,
        ⟨2, 100, 104, .eject, 3, [5], .committed⟩] =
      [⟨0, 100, 104, .eject, 3, [5], .committed⟩, ⟨2, 100, 104, .eject, 3, [5], .committed⟩] ∧
    (∃ tag ∈ [5, 7], tag ∉ [7]) ∧ findRecord 5 [piece] = some piece ∧ piece.priority = highestPriority [piece] [5, 7] := by
  decide +kernel

/-- A sound image, a failing one, and a SEALED lock after a reset of the line. -/
theorem test_hypotheses_LoadTakesTheImageOrTheDefaults :
    (State.reset.resetting = none ∧ State.reset.store.loading = true ∧ State.reset.store.image.sound = false) ∧
    FactoryDefaults Settings.factory ∧
    (∃ s : State,
      s =
        { State.reset with
          store := { State.reset.store with image := ⟨true, working.settings⟩, lock := .sealed }
          line := { State.reset.line with record := ⟨.resetLine, some .run, some false⟩ } } ∧
      s.store.image.sound = true ∧ s.line.record.cause = .resetLine ∧ s.store.lock = .sealed) :=
  ⟨by decide, (factoryDefaults_iff _).mpr rfl, ⟨_, rfl, by decide⟩⟩

/-- The census of two boards, of none, and one that finds no marker. -/
theorem test_hypotheses_EndOfStartupWakesTheBlocks :
    ∃ s : State, s = { State.reset with chain := { State.reset.chain with census := true } } ∧ s.resetting = none ∧
      s.chain.census = true ∧ s.line.state = .startup ∧
      (4 ≤ 4 ∧ List.replicate 16 (some 128) = List.replicate 16 (some (32 * 4))) ∧
      (0 ≤ 4 ∧ List.replicate 16 (some 0) = List.replicate 16 (some (32 * 0))) ∧
      (∀ k ≤ 4, List.replicate 16 (some 33) ≠ List.replicate 16 (some (32 * k))) :=
  ⟨_, rfl, by decide⟩

/-- HALT released all the time, asserted, and released again after an assertion during the census; a failed census. -/
theorem test_hypotheses_ClearFaultEndsWithItsCensus :
    ∃ s : State,
      s =
        { inLine ready .fault with
          chain := { ready.chain with census := true }, line := { ready.line with state := .fault, fault := .chain } } ∧
      s.resetting = none ∧ s.chain.census = true ∧ s.line.state = .fault ∧ s.line.halt.taken = false ∧
      s.line.haltInCensus = false ∧ { s.line.halt with taken := true }.taken = true ∧
      { s.line with haltInCensus := true }.haltInCensus = true ∧
      (∀ k ≤ 4, List.replicate 16 none ≠ List.replicate 16 (some (32 * k))) :=
  ⟨_, rfl, by decide⟩

/-- What comes back whole on two boards, with output 0 on. -/
def wholeReturn : List Bool :=
  true :: List.replicate 63 false ++ List.replicate 8 true ++ List.replicate 8 false

/-- STARTUP, a census and a reset. A whole marker on two boards. At a station of four channels, with a confirm window of 20,000 µs and a max on time of
20,000 µs: confirm timers at the window and past it, a stuck counter below 2 and at 2, an entry past the limit, and
every channel FAULTED. -/
theorem test_hypotheses_SoundRefreshStoresTheFeedback :
    (State.reset.line.state = .startup ∧ { running.chain with census := true }.census = true ∧
      { running with resetting := some ⟨0, true, false, false, none⟩ }.resetting ≠ none) ∧
    (∃ s : State, s = { running with chain := { running.chain with refreshStart := some 999900 } } ∧
      s.resetting = none ∧ s.line.state ≠ .startup ∧ s.chain.census = false ∧ s.chain.refreshStart = some 999900 ∧
      999900 + 100 ≤ s.clock ∧
      (wholeReturn.drop (32 * s.chain.boards)).take 16 = List.replicate 8 true ++ List.replicate 8 false) ∧
    (running.stations.get 1).state ≠ .armed ∧
    (∃ b : Block,
      b =
        { (listed .active (.active 900000 false)).toBlock with
          chain := { running.chain with feedback := List.replicate 128 true }
          settings :=
            { running.settings with
              stations := running.settings.stations.set 0 { nozzle with confirmWindow := 20000, maxOnTime := 20000 } }
          stations :=
            running.stations.set 0
              { running.stations.get 0 with
                channels :=
                  [⟨none, some 980000, 1, none⟩, ⟨none, some 979999, 2, some 979999⟩, ⟨some .stuck, none, 0, none⟩,
                    ⟨none, none, 0, some 980000⟩] ++ List.replicate 60 Channel.ok } } ∧
      (b.stations.get 0).state = .armed ∧
      (b.stations.get 0).channels[0]? = some ⟨none, some 980000, 1, none⟩ ∧
      b.clock - 980000 ≤ (b.settings.stations.get 0).confirmWindow ∧
      (b.settings.stations.get 0).confirmWindow < b.clock - 979999 ∧
      b.chain.feedback.getD ((b.settings.stations.get 0).firstOutput + 0) false = true ∧
      b.chain.outputs.getD ((b.settings.stations.get 0).firstOutput + 0) false = false ∧
      (b.lists.get 0).map (Entry.overTime b.clock 20000) = [true] ∧ channelOk b 0 3 = true ∧
      channelOk b 0 2 = false) ∧
    ∃ b : Block,
      b =
        { running.toBlock with
          stations :=
            running.stations.set 0
              { running.stations.get 0 with channels := List.replicate 64 { Channel.ok with fault := some .stuck } } } ∧
      ∀ ch, ch < (b.settings.stations.get 0).channels → channelOk b 0 ch = false :=
  ⟨by decide, ⟨_, rfl, by decide +kernel⟩, by decide, ⟨_, rfl, by decide +kernel⟩, ⟨_, rfl, by decide +kernel⟩⟩

/-- A marker one place late in RUN; the same in FAULT. -/
theorem test_hypotheses_FailedRefreshFaultsTheLine :
    (running.toBlock.Shaped ∧ running.resetting = none ∧ running.line.state ≠ .startup ∧ running.chain.census = false ∧
      running.chain.refreshStart = some 0 ∧ 0 + 100 ≤ running.clock ∧ running.line.state ≠ .fault ∧
      ((false :: wholeReturn).drop (32 * running.chain.boards)).take 16 ≠
        List.replicate 8 true ++ List.replicate 8 false) ∧
    (∃ s : State, s = { running with line := { running.line with state := .fault, fault := .chain } } ∧
      s.toBlock.Shaped ∧ s.line.state = .fault) :=
  ⟨⟨running_shaped, by decide +kernel⟩, ⟨_, rfl, { running_shaped with faultCause := by decide }, rfl⟩⟩

/-- Output 0 is on under an ACTIVE EJECT entry, and off without it; a purge in its shot and a calibration with a shot in
progress are on their channel, and one that waits is on none. -/
theorem test_hypotheses_OutputsAreOnOnlyWhereCommanded :
    (running.stations.get 0).channels[63]? = some Channel.ok ∧
    outputState (listed .active (.active 0 false)).toBlock 0 = true ∧
      outputState (listed .committed .committed).toBlock 0 = false ∧
      (∀ maint ∈ [Sequencer.purging ⟨0, 10, 10, 1, 1, 3, .shot 0⟩, .calibrating ⟨0, 3, [], some 0, some 0⟩],
        shotOn { working.toBlock with maint := maint } 0 3 = true ∧
          outputState { working.toBlock with maint := maint } 3 = true) ∧
      ∀ maint ∈ [Sequencer.purging ⟨0, 10, 10, 1, 1, 3, .waiting⟩, .calibrating ⟨0, 3, [], some 0, none⟩],
        shotOn { working.toBlock with maint := maint } 0 3 = false := by decide +kernel

theorem test_hypotheses_SettledStationIsArmed :
    ∃ s : State,
      s =
        { working with
          stations := ready.stations.set 0 { Station.afterReset with state := .arming, enable := true, settle := some 950000 } } ∧
      s.resetting = none ∧ (s.stations.get 0).state = .arming ∧ (s.stations.get 0).settle = some 950000 ∧
      950000 + (s.settings.stations.get 0).settleTime * 1000 ≤ s.clock :=
  ⟨_, rfl, by decide⟩

theorem test_hypotheses_LevelChangeStartsTheFilter :
    ∃ after : Bool → PlantFilter → PlantFilter, ∀ level f, after level f =
      if level = f.level then f
      else { f with level := level, since := if ready.resetting = none ∧ level ≠ f.taken then some ready.clock else none } :=
  ⟨_, fun _ _ => rfl⟩

theorem test_hypotheses_HaltStopsTheLine :
    ∃ s : State, s = { running with line := { running.line with halt := ⟨true, false, some 999000⟩ } } ∧
      s.toBlock.Shaped ∧ s.resetting = none ∧ s.line.halt = ⟨true, false, some 999000⟩ ∧ 999000 + 1000 ≤ s.clock ∧
      (s.line.state = .standby ∨ s.line.state = .run ∨ s.line.state = .draining) :=
  ⟨_, rfl, { running_shaped with faultCause := by decide }, by decide⟩

theorem test_hypotheses_TakenInputsChangeTheirState :
    (∃ s : State,
      s =
        { inLine running .halt with
          line :=
            { running.line with
              state := .halt, halt := ⟨false, true, some 999000⟩, airLow := ⟨true, !true, some 999000⟩
              key := ⟨true, !true, some 999000⟩ } } ∧
      s.resetting = none ∧ 999000 + 1000 ≤ s.clock ∧ s.line.halt = ⟨false, true, some 999000⟩ ∧ s.line.state = .halt ∧
      s.line.airLow = ⟨true, !true, some 999000⟩ ∧ s.line.key = ⟨true, !true, some 999000⟩) ∧
    (∃ s : State,
      s =
        { ready with
          line := { ready.line with state := .fault, halt := ⟨true, false, some 999000⟩ }
          chain := { ready.chain with census := true } } ∧
      s.line.halt = ⟨true, false, some 999000⟩ ∧ s.line.state = .fault ∧ s.chain.census = true) :=
  ⟨⟨_, rfl, by decide⟩, ⟨_, rfl, by decide⟩⟩

/-- An IDENTIFY frame at its last check byte. -/
def identifyCheck : Byte × Byte :=
  ((crcBytes [0#8, 1#8]).headD 0#8, ((crcBytes [0#8, 1#8]).drop 1).headD 0#8)

/-- SEEKING; in IN_FRAME the least and the largest length byte, a payload byte that has the value of the sync byte, and the
first check byte of the longest frame; and a good IDENTIFY frame at its last check byte, each at the last moment. -/
theorem test_hypotheses_GoodControlFrameJoinsTheBuffer :
    (ready.resetting = none ∧ ready.msg.receiver = .seeking) ∧
    (∀ bytes : List Byte, ∃ s : State,
      s = { ready with msg := { ready.msg with receiver := .inFrame bytes 998000 } } ∧
      s.msg.receiver = .inFrame bytes 998000 ∧ s.clock ≤ 998000 + 2000) ∧
    (([] : List Byte) ++ [0#8] = 0#8 :: [] ∧ [] ++ [250#8] = 250#8 :: ([] : List Byte) ∧ (250#8).toNat ≤ 250 ∧
      [1#8, 0x22#8] ++ [0xC5#8] = 1#8 :: [0x22#8, 0xC5#8] ∧ [0x22#8, 0xC5#8].length ≤ (1#8).toNat + 2 ∧
      250#8 :: List.replicate 251 0#8 ++ [7#8] = 250#8 :: (List.replicate 251 0#8 ++ [7#8]) ∧
      (List.replicate 251 0#8 ++ [7#8]).length ≤ (250#8).toNat + 2) ∧
    (∃ s : State,
      s = { ready with msg := { ready.msg with receiver := .inFrame [0#8, 1#8, identifyCheck.1] 998000 } } ∧
      s.msg.receiver = .inFrame (0#8 :: 1#8 :: [] ++ [identifyCheck.1]) 998000 ∧ s.clock ≤ 998000 + 2000 ∧
      ([] : List Byte).length = (0#8).toNat ∧ (0#8).toNat ≤ 250 ∧
      crcBytes (0#8 :: 1#8 :: []) = [identifyCheck.1, identifyCheck.2]) :=
  ⟨by decide, fun _ => ⟨_, rfl, rfl, (by decide : 1000000 ≤ 998000 + 2000)⟩, by decide +kernel,
    ⟨_, rfl, by decide +kernel⟩⟩

/-- One microsecond past the gap; a length of 251 at the last moment; a wrong check byte. -/
theorem test_hypotheses_BadControlFrameIsDiscarded :
    (∃ s : State, s = { ready with msg := { ready.msg with receiver := .inFrame [] 997999 } } ∧
      s.resetting = none ∧ s.msg.receiver = .inFrame [] 997999 ∧ 997999 + 2000 < s.clock) ∧
    (∃ s : State, s = { ready with msg := { ready.msg with receiver := .inFrame [] 998000 } } ∧
      s.clock ≤ 998000 + 2000 ∧ 250 < (251#8).toNat) ∧
    crcBytes [0#8, 1#8] ≠ [identifyCheck.1, identifyCheck.2 ^^^ 1#8] :=
  ⟨⟨_, rfl, by decide +kernel⟩, ⟨_, rfl, by decide⟩, by decide +kernel⟩

/-- 32 reports, the seventh a RESULT. -/
def fullQueue : List Report :=
  (List.replicate 6 ⟨0, .done .save .ok none none 0⟩) ++ ⟨6, .result 5 1 (Four.all4 none)⟩ ::
    List.replicate 25 ⟨7, .done .save .ok none none 0⟩

/-- Each kind of sending at its last bit; a full queue with one RESULT and one without; a queue with a reply behind one
report and one with the reply at the front. -/
theorem test_hypotheses_TransmissionEndsAfterItsLastByte :
    (∀ role : SendRole, ∃ s : State,
      s = { ready with msg := { ready.msg with sending := some ⟨role, [0xC5#8], 999990⟩ } } ∧ s.resetting = none ∧
      s.msg.sending = some ⟨role, [0xC5#8], 999990⟩ ∧ 999990 + 10 * [0xC5#8].length ≤ s.clock) ∧
    (32 ≤ fullQueue.length ∧ (fullQueue.take 31).length < 32 ∧
      fullQueue = fullQueue.take 6 ++ ⟨6, .result 5 1 (Four.all4 none)⟩ :: fullQueue.drop 7 ∧
      (∀ e ∈ fullQueue.take 6, e.body.isResult = false) ∧
      (∀ e ∈ List.replicate 32 (⟨7, .done .save .ok none none 0⟩ : Report), e.body.isResult = false)) ∧
    (∃ m : MessageUnit, m = { ready.msg with reports := fullQueue.take 1, reply := some ⟨[0#8], 1, false⟩ } ∧
      m.sending = none ∧ m.reports = (⟨0, .done .save .ok none none 0⟩ : Report) :: [] ∧
      (∀ w, m.reply = some w → 0 < w.ahead)) ∧
    (∃ m : MessageUnit, m = { ready.msg with reports := fullQueue.take 1, reply := some ⟨[0#8], 0, false⟩ } ∧
      m.sending = none ∧ m.reply = some ⟨[0#8], 0, false⟩) ∧
    ∃ slots : Four (Option (SlotOutcome × SlotFlags)),
      slots.get 0 = some (.aborted, ⟨true, true, true, true, true⟩) ∧ slots.get 3 = none :=
  ⟨fun _ => ⟨_, rfl, rfl, rfl, (by decide : 999990 + 10 * 1 ≤ 1000000)⟩, by decide +kernel,
    ⟨_, rfl, rfl, rfl, fun _ h => by cases (show some (⟨[0#8], 1, false⟩ : WaitingReply) = some _ from h); decide⟩,
    ⟨_, rfl, rfl, rfl⟩, ⟨⟨some (.aborted, ⟨true, true, true, true, true⟩), none, none, none⟩, rfl, rfl⟩⟩

/-- A request of any kind may be next in a state that answers nothing else; a record with a slot that has figures and three
absent ones, one whose slot has none, and an entry with the most tags. -/
theorem test_hypotheses_ReadingRequestsChangeNothing :
    (Serving (asked ready 0x03#8 []) 0x03#8 [] [] ∧ (0x03#8).toNat ∉ requestKinds) ∧
    Serving (asked ready 0x01#8 []) 0x01#8 [] [] ∧ Serving (asked ready 0x02#8 []) 0x02#8 [] [] ∧
    (Serving (asked tracking 0x42#8 [5#8, 0#8]) 0x42#8 [5#8, 0#8] [] ∧
      findRecord (field [5#8, 0#8] 0 2) tracking.track.table = some piece ∧
      findRecord (field [6#8, 0#8] 0 2) tracking.track.table = none) ∧
    (Serving (asked tracking 0x43#8 [3#8, 0xFF#8, 2#8]) 0x43#8 [3#8, 0xFF#8, 2#8] [] ∧
      field [3#8, 0xFF#8, 2#8] 0 1 = (3 : StationId).val ∧ field [3#8, 0xFF#8, 2#8] 1 2 ≤ 767 ∧
      767 < field [3#8, 0#8, 3#8] 1 2) ∧
    ((pieceAt .active).slots.get 0 = some ⟨.active, 90, some ⟨100, 104, 0, 0, 1, 0⟩, SlotFlags.clear⟩ ∧
      (pieceAt .active).slots.get 3 = none ∧ piece.slots.get 0 = some ⟨.waiting, 90, none, SlotFlags.clear⟩) ∧
    [1, 2, 3, 4].length ≤ 4 :=
  ⟨⟨asked_serving _ _ rfl rfl, by decide⟩, asked_serving _ _ rfl rfl, asked_serving _ _ rfl rfl,
    ⟨asked_serving _ _ rfl rfl, by decide +kernel⟩, ⟨asked_serving _ _ rfl rfl, by decide⟩, by decide, by decide⟩

/-- Every group and the first number past them, with the clear flag on; the least flag byte that names no value; a station's
thirteen outcome tallies. -/
theorem test_hypotheses_TallyReadCarriesAndClears :
    (∀ group ∈ [0#8, 1#8, 2#8, 5#8, 6#8],
      Serving (asked ready 0x50#8 [group, 1#8]) 0x50#8 [group, 1#8] [] ∧ ready.line.state ≠ .startup ∧
      ((5#8).toNat = (3 : StationId).val + 2 ∧ 6 ≤ (6#8).toNat)) ∧
    (Serving (asked ready 0x50#8 [0#8, 2#8]) 0x50#8 [0#8, 2#8] [] ∧ 2 ≤ (2#8).toNat) ∧
    (ready.track.outcomes.get 3).length = 13 ∧ (working.stations.get 0).channels[3]? = some Channel.ok ∧
    3 < (working.settings.stations.get 0).channels :=
  ⟨fun _ _ => ⟨asked_serving _ _ rfl rfl, by decide⟩, ⟨asked_serving _ _ rfl rfl, by decide⟩, by decide⟩

theorem test_hypotheses_StartupRefusesRequests :
    Serving (asked State.reset 0x21#8 [0#8]) 0x21#8 [0#8] [] ∧ State.reset.line.state = .startup ∧
      serves .arm ⟨0x21#8, [0#8]⟩ = true :=
  ⟨asked_serving _ _ rfl rfl, by decide⟩

/-- Lengths one below and one above the kind's under a SEALED lock; WRITE of no entry, of five bytes and of nine entries;
a LINE and a PURGE frame that name no order; a PURGE START of one byte and a SUSPEND of seven; then edits that the lock or
the store's work bars. -/
theorem test_hypotheses_LockAndWorkBarEdits :
    (∀ x ∈ [(Instr.lineSet, 0x11#8, 7, 6), (.lineSet, 0x11#8, 7, 8), (.stationSet, 0x20#8, 23, 22),
        (.stationSet, 0x20#8, 23, 24), (.save, 0x60#8, 0, 1), (.lineRun, 0x10#8, 1, 0), (.tallyRead, 0x50#8, 2, 3)],
      ∀ p : List Byte, p = List.replicate x.2.2.2 0#8 → ∃ s : State,
        s = asked { ready with store := { ready.store with lock := .sealed } } x.2.1 p ∧ Serving s x.2.1 p [] ∧
        s.line.state ≠ .startup ∧ serves x.1 ⟨x.2.1, p⟩ = true ∧ p.length ≠ x.2.2.1) ∧
    (∀ p ∈ [[], List.replicate 5 (0#8 : Byte), List.replicate 36 0#8],
      Serving (asked ready 0x31#8 p) 0x31#8 p [] ∧ serves .write ⟨0x31#8, p⟩ = true ∧
      ready.msg.pointer.table = .route ∧ ∀ n, 1 ≤ n → n ≤ 8 → p.length ≠ n * 4) ∧
    (∀ c ∈ [Instr.lineRun, .lineStandbyDrain, .lineStandbyFlush],
      Serving (asked ready 0x10#8 [3#8]) 0x10#8 [3#8] [] ∧ serves c ⟨0x10#8, [3#8]⟩ = true ∧ 3 ≤ field [3#8] 0 1) ∧
    (∀ x ∈ [(Instr.purgeStart, [0#8]), (.purgeSuspend, List.replicate 7 1#8), (.purgeAbort, [4#8]), (.purgeResume, [])],
      Serving (asked ready 0x70#8 x.2) 0x70#8 x.2 [] ∧ serves x.1 ⟨0x70#8, x.2⟩ = true ∧
      ¬(x.2.length = 7 ∧ field x.2 0 1 = 0) ∧ ¬(x.2.length = 1 ∧ field x.2 0 1 ∈ [1, 2, 3])) ∧
    (∃ s : State, s = asked { ready with store := { ready.store with lock := .sealed } } 0x35#8 [0#8] ∧
      Serving s 0x35#8 [0#8] [] ∧ s.store.lock = .sealed) ∧
    (∃ s : State, s = asked { ready with store := { ready.store with lock := .keyed } } 0x60#8 [] ∧
      Serving s 0x60#8 [] [] ∧ s.store.lock = .keyed ∧ s.line.key.taken = false) ∧
    (∃ s : State, s = asked { ready with store := { ready.store with activity := .restoring } } 0x31#8 [0#8, 0#8, 0#8, 0#8] ∧
      Serving s 0x31#8 [0#8, 0#8, 0#8, 0#8] [] ∧ s.store.lock = .opened ∧ s.store.activity ≠ .idle ∧
      4 = 1 * (match s.msg.pointer.table with | .route => 4 | .pattern => 6)) := by
  refine ⟨?_, ?_, ?_, ?_, ⟨_, rfl, asked_serving _ _ rfl rfl, rfl⟩, ⟨_, rfl, asked_serving _ _ rfl rfl, rfl, rfl⟩,
    ⟨_, rfl, asked_serving _ _ rfl rfl, rfl, by decide, rfl⟩⟩
  · rintro x hx p rfl
    refine ⟨_, rfl, asked_serving _ _ rfl rfl, (by decide : ready.line.state ≠ .startup), ?_⟩
    revert x
    decide +kernel
  · intro p hp
    refine ⟨asked_serving _ _ rfl rfl, rfl, rfl, ?_⟩
    intro n h1 h8
    simp only [List.mem_cons, List.not_mem_nil, or_false] at hp
    rcases hp with rfl | rfl | rfl <;> simp only [List.length_nil, List.length_replicate] <;> omega
  · intro c hc
    refine ⟨asked_serving _ _ rfl rfl, ?_⟩
    revert c
    decide
  · intro x hx
    refine ⟨asked_serving _ _ rfl rfl, ?_⟩
    revert x
    decide +kernel

theorem test_hypotheses_LineRunEntersRun :
    (Serving (asked working 0x10#8 [0#8]) 0x10#8 [0#8] [] ∧ working.line.state = .standby ∧ working.maint = .idle ∧
      working.store.activity = .idle ∧ working.pos.backlash ≤ working.settings.reverseLimit) ∧
    (∃ s : State,
      s = { running with line := { running.line with state := .draining }, pos := { running.pos with n := -65 } } ∧
      s.toBlock.Shaped ∧ s.line.state = .draining ∧ s.settings.reverseLimit < s.pos.backlash) :=
  ⟨⟨asked_serving _ _ rfl rfl, by decide⟩,
    ⟨_, rfl, { running_shaped with backlash := by decide, faultCause := by decide }, by decide⟩⟩

theorem test_hypotheses_StandbyOrdersEndTheRun :
    (Serving (asked tracking 0x10#8 [1#8]) 0x10#8 [1#8] [] ∧ tracking.line.state = .run ∧ tracking.track.table ≠ []) ∧
    (Serving (asked running 0x10#8 [2#8]) 0x10#8 [2#8] [] ∧ running.line.state = .run ∧ running.track.table = []) ∧
    (Serving (asked (inLine tracking .draining) 0x10#8 [2#8]) 0x10#8 [2#8] [] ∧
      (inLine tracking .draining).line.state = .draining) :=
  ⟨⟨asked_serving _ _ rfl rfl, by decide⟩, ⟨asked_serving _ _ rfl rfl, by decide⟩,
    ⟨asked_serving _ _ rfl rfl, by decide⟩⟩

/-- S at its largest and least, the stale limit at its largest and least; and just past them. -/
theorem test_hypotheses_LineSetWritesThreeSettings :
    (∀ p ∈ [[0#8, 1#8, 0#8, 0#8, 0xFF#8, 0xFF#8, 0xFF#8], [1#8, 0#8, 0#8, 0#8, 1#8, 0#8, 0#8]],
      Serving (asked ready 0x11#8 p) 0x11#8 p [] ∧ EditsOpen (asked ready 0x11#8 p) ∧ p.length = 7 ∧
      1 ≤ field p 0 2 ∧ field p 0 2 ≤ 256 ∧ 1 ≤ field p 4 3 ∧ field p 4 3 ≤ 16777215) ∧
    256 < field [1#8, 1#8, 0#8, 0#8, 1#8, 0#8, 0#8] 0 2 ∧ field [1#8, 0#8, 0#8, 0#8, 0#8, 0#8, 0#8] 4 3 = 0 := by
  refine ⟨?_, by decide, by decide⟩
  intro p hp
  refine ⟨asked_serving _ _ rfl rfl, ⟨rfl, Or.inl rfl⟩, ?_⟩
  revert p
  decide

/-- The record of a NOZZLE station of four channels, at station 1. -/
def stationBytes : List Byte :=
  [1#8, 1#8, 4#8, 4#8, 0#8, 0#8, 0#8, 0#8, 0#8, 0#8, 32#8, 64#8, 0#8, 0x20#8, 0x4E#8, 0#8, 2#8, 4#8, 0x88#8, 0x13#8, 0#8,
    50#8, 0#8]

/-- A good record of a NOZZLE station whose outputs stand right behind station 0's; one that shares the last of them; a kind
that names no code; COIL with 16 channels and with 17; and a station number past the last. -/
theorem test_hypotheses_StationSetReplacesTheRecord :
    (Serving (asked working 0x20#8 stationBytes) 0x20#8 stationBytes [] ∧
      EditsOpen (asked working 0x20#8 stationBytes) ∧ working.line.state ≠ .startup ∧ stationBytes.length = 23) ∧
    (field stationBytes 0 1 = (1 : StationId).val ∧ (working.stations.get 1).state = .disarmed ∧
      (working.stations.get 0).state ≠ .disarmed) ∧
    (∃ c : StationSettings,
      c =
        { kind := .nozzle, firstOutput := field stationBytes 2 1, channels := field stationBytes 3 1
          leadDistance := field stationBytes 4 3, latency := field stationBytes 7 3, horizon := field stationBytes 10 1
          maxOn := field stationBytes 11 2, maxOnTime := field stationBytes 13 3, minGap := field stationBytes 16 1
          concurrency := field stationBytes 17 1, confirmWindow := field stationBytes 18 3
          settleTime := field stationBytes 21 2 } ∧
      (field stationBytes 1 1, c.kind, 64) ∈
        [(0, StationKind.none, 64), (1, .nozzle, 64), (2, .coil, 16), (3, .flap, 1)] ∧
      GoodRecord 64 c ∧ (working.settings.stations.get 0).kind ≠ .none ∧ c.firstOutput = 4 ∧
      (working.settings.stations.get 0).firstOutput + (working.settings.stations.get 0).channels = 4 ∧
      (∀ other, other ≠ 0 → (working.settings.stations.get other).kind = .none) ∧
      3 < (working.settings.stations.get 0).firstOutput + (working.settings.stations.get 0).channels) ∧
    4 ≤ field (stationBytes.set 1 4#8) 1 1 ∧
    (GoodRecord 16 { nozzle with kind := .coil, channels := 16 } ∧ ¬GoodRecord 16 { nozzle with kind := .coil, channels := 17 }) ∧
    4 ≤ field (stationBytes.set 0 4#8) 0 1 := by
  refine ⟨⟨asked_serving _ _ rfl rfl, ⟨rfl, Or.inl rfl⟩, by decide⟩, by decide, ⟨_, rfl, by decide, ?_, by decide⟩,
    by decide, ⟨?_, fun h => absurd h.channels.2 (by decide)⟩, by decide⟩
  · constructor <;> decide
  · constructor <;> decide

/-- DISARMED stations with two boards counted: one whose range ends at output 63, one a place further, one of kind NONE;
an ARMED one; a settle time of 0; STARTUP; and the first number past the stations. -/
theorem test_hypotheses_ArmStartsTheSettleTime :
    (Serving (asked (inLine working .startup) 0x21#8 [1#8]) 0x21#8 [1#8] [] ∧ [1#8].length = 1) ∧
    (Serving (asked working 0x21#8 [4#8]) 0x21#8 [4#8] [] ∧ working.line.state ≠ .startup ∧ 4 ≤ field [4#8] 0 1) ∧
    ∃ s : State,
      s =
        asked
          { working with
            settings :=
              { working.settings with
                stations :=
                  ⟨nozzle, { nozzle with firstOutput := 60 }, { nozzle with firstOutput := 61, settleTime := 0 },
                    StationSettings.initial⟩ } }
          0x21#8 [1#8] ∧
      Serving s 0x21#8 [1#8] [] ∧ s.line.state ≠ .startup ∧ s.line.state ≠ .halt ∧ s.line.state ≠ .fault ∧
      field [1#8] 0 1 = (1 : StationId).val ∧ (s.stations.get 0).state = .armed ∧ (s.stations.get 1).state = .disarmed ∧
      (s.settings.stations.get 1).kind ≠ .none ∧ allFaulted s.toBlock 1 = false ∧
      60 + 4 - 1 < 32 * s.chain.boards ∧ (s.settings.stations.get 1).firstOutput = 60 ∧
      32 * s.chain.boards ≤ 61 + 4 - 1 ∧ (s.settings.stations.get 2).firstOutput = 61 ∧
      0 < (s.settings.stations.get 1).settleTime ∧ (s.settings.stations.get 2).settleTime = 0 ∧
      (s.settings.stations.get 3).kind = .none :=
  ⟨⟨asked_serving _ _ rfl rfl, rfl⟩, ⟨asked_serving _ _ rfl rfl, by decide⟩, _, rfl, asked_serving _ _ rfl rfl,
    by decide +kernel⟩

/-- The first number past the stations; an ARMED station in RUN; one in DRAINING whose DISARM finishes the last record; a
FAULTED one with a record in the table; a DISARMED one. -/
theorem test_hypotheses_DisarmTakesTheStationOut :
    (Serving (asked ready 0x22#8 [4#8]) 0x22#8 [4#8] [] ∧ ready.line.state ≠ .startup ∧ 4 ≤ field [4#8] 0 1) ∧
    (Serving (asked (listed .active (.active 0 false)) 0x22#8 [0#8]) 0x22#8 [0#8] [] ∧ field [0#8] 0 1 = (0 : StationId).val ∧
      ((listed .active (.active 0 false)).stations.get 0).state = .armed) ∧
    ((inLine (listed .committed .committed) .draining).line.state = .draining ∧
      (((inLine (listed .committed .committed) .draining).track.table.map
        (ParticleRecord.updateSlot 0 Slot.stationLeft)).filter fun r => !r.finished) = []) ∧
    (∃ s : State, s = { inLine working .draining with
        stations := ready.stations.set 2 { Station.afterReset with state := .faulted }, track := tracking.track } ∧
      (s.stations.get 2).state = .faulted ∧ (s.line.state = .draining → s.track.table ≠ [])) ∧
    (ready.stations.get 3).state = .disarmed :=
  ⟨⟨asked_serving _ _ rfl rfl, by decide⟩, ⟨asked_serving _ _ rfl rfl, by decide⟩, by decide +kernel,
    ⟨_, rfl, by decide⟩, by decide⟩

/-- The first number past the stations; the first and the last number past the channels of a station that has 64, and of
one that has 4; the last channel of a FAULTED station. -/
theorem test_hypotheses_ClearChannelReturnsItToOk :
    (Serving (asked ready 0x24#8 [4#8, 0#8]) 0x24#8 [4#8, 0#8] [] ∧ ready.line.state ≠ .startup ∧
      4 ≤ field [4#8, 0#8] 0 1) ∧
    (∃ s : State,
      s =
        { ready with
          settings :=
            { ready.settings with stations := ready.settings.stations.set 3 { nozzle with channels := 64 } } } ∧
      s.line.state ≠ .startup ∧ (∀ ch ∈ [64#8, 255#8], Serving (asked s 0x24#8 [3#8, ch]) 0x24#8 [3#8, ch] []) ∧
      (∀ ch ∈ [64#8, 255#8], field [3#8, ch] 0 1 = (3 : StationId).val ∧
        (s.settings.stations.get 3).channels ≤ field [3#8, ch] 1 1)) ∧
    ∃ s : State,
      s =
        asked
          { working with
            stations :=
              ready.stations.set 0
                { Station.afterReset with
                  state := .faulted, channels := List.replicate 64 { Channel.ok with fault := some .stuck } } }
          0x24#8 [0#8, 3#8] ∧
      Serving s 0x24#8 [0#8, 3#8] [] ∧ (s.stations.get 0).state = .faulted ∧
      (s.stations.get 0).channels[field [0#8, 3#8] 1 1]? = some { Channel.ok with fault := some .stuck } ∧
      field [0#8, 3#8] 1 1 < (s.settings.stations.get 0).channels ∧
      (s.settings.stations.get 0).channels ≤ field [0#8, 4#8] 1 1 ∧ (working.stations.get 0).state ≠ .faulted :=
  ⟨⟨asked_serving _ _ rfl rfl, by decide⟩, ⟨_, rfl, by decide, fun _ _ => asked_serving _ _ rfl rfl, by decide +kernel⟩, _, rfl,
    asked_serving _ _ rfl rfl, by decide +kernel⟩

theorem test_hypotheses_FloorRanksAndHoldsAreSet :
    (Serving (asked ready 0x23#8 [3#8, 15#8, 15#8]) 0x23#8 [3#8, 15#8, 15#8] [] ∧
      field [3#8, 15#8, 15#8] 0 1 = (3 : StationId).val ∧ field [3#8, 15#8, 15#8] 1 1 ≤ 15 ∧
      field [3#8, 15#8, 15#8] 2 1 ≤ 15 ∧ 15 < field [3#8, 15#8, 16#8] 2 1 ∧ 4 ≤ field [4#8, 0#8, 0#8] 0 1) ∧
    Serving (asked ready 0x34#8 []) 0x34#8 [] [] ∧
    (Serving (asked ready 0x33#8 []) 0x33#8 [] [] ∧ EditsOpen (asked ready 0x33#8 [])) :=
  ⟨⟨asked_serving _ _ rfl rfl, by decide⟩, asked_serving _ _ rfl rfl, asked_serving _ _ rfl rfl, ⟨rfl, Or.inl rfl⟩⟩

/-- The last index of each table and the first past it, a table and a step that name no code, READ's least and largest
count; a route entry, the last ROM pattern and the first and last RAM pattern. -/
theorem test_hypotheses_SelectAndReadMoveThePointer :
    (Serving (asked ready 0x30#8 [1#8, 31#8, 2#8]) 0x30#8 [1#8, 31#8, 2#8] [] ∧
      (field [1#8, 31#8, 2#8] 0 1, TableName.pattern, 31) ∈
        [(0, TableName.route, 63), (1, .pattern, 7 + ready.settings.partition.ramPatterns)] ∧
      (field [1#8, 31#8, 2#8] 2 1, PointerStep.down) ∈ [(0, PointerStep.hold), (1, .up), (2, .down)] ∧
      field [1#8, 31#8, 2#8] 1 1 ≤ 31 ∧ 31 < field [1#8, 32#8, 2#8] 1 1 ∧ 2 ≤ field [2#8, 0#8, 0#8] 0 1 ∧
      3 ≤ field [0#8, 0#8, 3#8] 2 1) ∧
    (∀ n ∈ [1#8, 8#8, 9#8, 0#8], Serving (asked ready 0x32#8 [n]) 0x32#8 [n] [] ∧ [n].length = 1) ∧
    (working.settings.routes[1]? =
        some { RouteEntry.initial with stations := ⟨true, false, false, false⟩, priority := 3 } ∧
      (romPatterns[7]? = some ⟨0, 0, 3, 8, 8⟩ ∧ romPatterns[8]? = none) ∧
      8 + ready.settings.partition.ramPatterns = 32 ∧ ready.settings.patterns[8 - 8]? = some pattern0 ∧
      ready.settings.patterns[31 - 8]? = some pattern0) :=
  ⟨⟨asked_serving _ _ rfl rfl, by decide⟩, fun _ _ => ⟨asked_serving _ _ rfl rfl, rfl⟩, by decide +kernel⟩

theorem test_hypotheses_PointerWrapsWithinItsRegion :
    ((TableName.pattern, 8, 15) ∈
        [(TableName.route, 0, 63), (TableName.pattern, 0, 7), (TableName.pattern, 8, 7 + Partition.p1.ramPatterns)] ∧
      8 ≤ 15 ∧ 15 ≤ 15) ∧
      Pointer.move .p1 ⟨.route, 63, .up⟩ = ⟨.route, 0, .up⟩ ∧ Pointer.move .p1 ⟨.pattern, 7, .up⟩ = ⟨.pattern, 0, .up⟩ ∧
      Pointer.move .p1 ⟨.pattern, 8, .down⟩ = ⟨.pattern, 15, .down⟩ ∧ Pointer.move .p1 ⟨.pattern, 15, .up⟩ = ⟨.pattern, 8, .up⟩ := by decide

/-- One good route entry; one whose delivery names no code and one that is LEAST_LOADED with one station; one good pattern
with the pointer at code 8; one bad one. -/
theorem test_hypotheses_WriteFillsTheTable :
    (Serving (asked ready 0x31#8 [1#8, 3#8, 0#8, 0#8]) 0x31#8 [1#8, 3#8, 0#8, 0#8] [] ∧
      EditsOpen (asked ready 0x31#8 [1#8, 3#8, 0#8, 0#8]) ∧ ready.msg.pointer.table = .route ∧
      ∃ e : RouteEntry, SpellsRoute [1#8, 3#8, 0#8, 0#8] e ∧ GoodRoute ready.settings.partition e ∧ e.priority = 3) ∧
    (∀ e, ¬SpellsRoute [0x31#8, 3#8, 0#8, 0#8] e) ∧
    (∀ e, SpellsRoute [0x11#8, 3#8, 0#8, 0#8] e → ¬GoodRoute ready.settings.partition e) ∧
    (∃ s : State, s = { ready with msg := { ready.msg with pointer := ⟨.pattern, 8, .up⟩ } } ∧ 8 ≤ s.msg.pointer.index ∧
      GoodPattern ⟨0, 0, 3, 16, 16⟩ ∧ ¬GoodPattern ⟨0, 0, 3, 16, 15⟩ ∧ ¬GoodPattern ⟨0, 0, 4, 1, 1⟩) := by
  refine ⟨⟨asked_serving _ _ rfl rfl, ⟨rfl, Or.inl rfl⟩, rfl, ?_⟩, ?_, ?_, ⟨_, rfl, by decide, ?_, ?_, ?_⟩⟩
  · refine ⟨_, (routeOf_eq_some _ _).mp rfl, (routeValid_iff _ _).mp ?_, ?_⟩ <;> decide
  · intro e h
    cases (show none = some e from (routeOf_eq_some _ _).mpr h)
  · intro e h good
    cases (show routeOf [0x11#8, 3#8, 0#8, 0#8] = some e from (routeOf_eq_some _ _).mpr h)
    exact absurd ((routeValid_iff _ _).mpr good) (by decide)
  · constructor <;> decide
  · exact fun h => absurd h.order (by decide)
  · exact fun h => absurd h.widen (by decide)

/-- The first and the last code, and the first number past them. -/
theorem test_hypotheses_PartitionCarriesThePatterns :
    (Serving (asked ready 0x35#8 [1#8]) 0x35#8 [1#8] [] ∧ EditsOpen (asked ready 0x35#8 [1#8]) ∧
      ready.line.state = .standby ∧ (∀ st, (ready.stations.get st).state = .disarmed) ∧
      (field [0#8] 0 1, Partition.p0) ∈ [(0, Partition.p0), (1, .p1), (2, .p2), (3, .p3)] ∧
      (field [3#8] 0 1, Partition.p3) ∈ [(0, Partition.p0), (1, .p1), (2, .p2), (3, .p3)] ∧ 4 ≤ field [4#8] 0 1) ∧
    (working.stations.get 0).state ≠ .disarmed :=
  ⟨⟨asked_serving _ _ rfl rfl, ⟨rfl, Or.inl rfl⟩, by decide⟩, by decide⟩

/-- A record with a COMMITTED slot in RUN, and in DRAINING as the last one; one with an ACTIVE slot; a tag that is not in
the table. -/
theorem test_hypotheses_CancelEndsWhatIsNotUnderWay :
    (Serving (asked (listed .committed .committed) 0x40#8 [5#8, 0#8]) 0x40#8 [5#8, 0#8] [] ∧
      findRecord 5 (listed .committed .committed).track.table = some (pieceAt .committed) ∧
      ((listed .committed .committed).track.table.map (·.tag)).Nodup ∧
      (∀ q ∈ (listed .committed .committed).track.table, q.tag ≠ 5 → q.finished = false) ∧
      (listed .committed .committed).line.state ≠ .draining ∧
      (inLine (listed .committed .committed) .draining).line.state = .draining ∧
      (∀ q ∈ (inLine (listed .committed .committed) .draining).track.table, q.tag = 5)) ∧
    findRecord 5 (listed .active (.active 0 false)).track.table = some (pieceAt .active) ∧
    findRecord 6 tracking.track.table = none :=
  ⟨⟨asked_serving _ _ rfl rfl, by decide +kernel⟩, by decide +kernel, by decide +kernel⟩

/-- To class 1 again (it passes, under FIXED and under LEAST_LOADED with a commit due), to class 0 (an empty set; in DRAINING
as the last one), past class 63, and with a COMMITTED slot. -/
theorem test_hypotheses_AmendRebuildsOrEndsTheRecord :
    (Serving (asked tracking 0x41#8 [5#8, 0#8, 1#8]) 0x41#8 [5#8, 0#8, 1#8] [] ∧ field [5#8, 0#8, 1#8] 2 1 = 1 ∧
      findRecord 5 tracking.track.table = some piece ∧
      (tracking.toBlock.route 1).hold = false ∧ (tracking.toBlock.route 1).stations.get 0 = true ∧
      (tracking.toBlock.route 1).minConfidence ≤ piece.confidence ∧ (tracking.toBlock.route 1).delivery ≠ .leastLoaded ∧
      (tracking.pos.slice : Int) < commitSliceOf tracking.toBlock 0 piece.position) ∧
    ((choosing.toBlock.route 1).delivery = .leastLoaded ∧ (choosing.toBlock.route 1).hold = false ∧
      (choosing.toBlock.route 1).stations.get 0 = true ∧ (choosing.toBlock.route 1).minConfidence ≤ piece.confidence) ∧
    ((tracking.toBlock.route 0).hold = false ∧ (∀ st, (tracking.toBlock.route 0).stations.get st = false) ∧
      (inLine tracking .draining).line.state = .draining ∧ ∀ q ∈ (inLine tracking .draining).track.table, q.tag = 5) ∧
    63 < field [5#8, 0#8, 64#8] 2 1 ∧
    ((pieceAt .committed).slots.get 0 = some ⟨.committed, 90, some ⟨100, 104, 0, 0, 1, 0⟩, SlotFlags.clear⟩) :=
  ⟨⟨asked_serving _ _ rfl rfl, by decide +kernel⟩, by decide +kernel, by decide +kernel, by decide, rfl⟩

theorem test_hypotheses_SaveAndRestoreMoveTheSettings :
    (Serving (asked working 0x60#8 []) 0x60#8 [] [] ∧ EditsOpen (asked working 0x60#8 [])) ∧
    (Serving (asked ready 0x61#8 []) 0x61#8 [] [] ∧ EditsOpen (asked ready 0x61#8 []) ∧ ready.line.state = .standby ∧
      (∀ st, (ready.stations.get st).state = .disarmed)) ∧
    (∃ s : State, s = { ready with store := { ready.store with activity := .saving working.settings } } ∧
      s.resetting = none ∧ s.store.activity = .saving working.settings) ∧
    (∃ s : State,
      s = { ready with store := { ready.store with activity := .restoring, image := ⟨true, working.settings⟩ } } ∧
      s.store.activity = .restoring ∧ s.store.image.sound = true ∧ (∀ st, (s.stations.get st).state = .disarmed)) :=
  ⟨⟨asked_serving _ _ rfl rfl, ⟨rfl, Or.inl rfl⟩⟩, ⟨asked_serving _ _ rfl rfl, ⟨rfl, Or.inl rfl⟩, by decide⟩,
    ⟨_, rfl, rfl, rfl⟩, ⟨_, rfl, by decide⟩⟩

theorem test_hypotheses_LockOrdersSetTheMode :
    ∀ code ∈ [0#8, 1#8, 2#8, 3#8],
      Serving (asked ready 0x62#8 [code]) 0x62#8 [code] [] ∧ ready.line.state ≠ .startup ∧
      EditsOpen (asked ready 0x62#8 [code]) ∧ 3 ≤ (3#8).toNat :=
  fun _ _ => ⟨asked_serving _ _ rfl rfl, by decide, ⟨rfl, Or.inl rfl⟩, by decide⟩

/-- A purge of 500 ms shots and gaps, sixteen cycles, on a station whose channel 0 is FAULTED. -/
def purged : Purge := ⟨0, 500, 500, 16, 1, 1, .waiting⟩

def oneFaulted : State :=
  { working with
    stations :=
      working.stations.set 0
        { working.stations.get 0 with
          channels := { Channel.ok with fault := some .noConfirm } :: List.replicate 63 Channel.ok } }

theorem oneFaulted_first : FirstOk oneFaulted.toBlock 0 0 1 ∧ FirstOk oneFaulted.toBlock 0 2 2 ∧ FirstOk oneFaulted.toBlock 0 3 3 ∧
    NoneOk oneFaulted.toBlock 0 4 := by
  have h (j : Nat) (hj : j < 1) : channelOk oneFaulted.toBlock 0 j = false := by
    have : j = 0 := by omega
    subst this
    decide +kernel
  refine ⟨⟨by decide, by decide +kernel, by decide +kernel, fun j _ => h j⟩,
    ⟨by decide, by decide +kernel, by decide +kernel, fun j hj hk => absurd hj (by omega)⟩,
    ⟨by decide, by decide +kernel, by decide +kernel, fun j hj hk => absurd hj (by omega)⟩, ?_⟩
  intro j hj hk
  have : (oneFaulted.toBlock.config 0).channels = 4 := by decide +kernel
  omega

theorem test_hypotheses_MaintenanceOrdersMoveTheSequencer :
    (∃ p : List Byte, p = [0#8, 0#8, 0xF4#8, 1#8, 0xF4#8, 1#8, 16#8] ∧ Serving (asked oneFaulted 0x70#8 p) 0x70#8 p [] ∧
      p.length = 7 ∧ field p 0 1 = 0 ∧ field p 1 1 = (0 : StationId).val ∧ field p 2 2 = 500 ∧ field p 4 2 = 500 ∧
      field p 6 1 = 16 ∧ oneFaulted.maint = .idle ∧ oneFaulted.line.state = .standby ∧
      (oneFaulted.stations.get 0).state = .armed ∧ 4 ≤ field (p.set 1 4#8) 1 1) ∧
    (FirstOk oneFaulted.toBlock 0 0 1 ∧ NoneOk oneFaulted.toBlock 0 (3 + 1)) ∧
    (∀ code ∈ [1#8, 2#8, 3#8], Serving (asked oneFaulted 0x70#8 [code]) 0x70#8 [code] []) ∧
    (1 ≤ purged.cycle ∧ purged.cycle < purged.cycles ∧ { purged with cycle := 16 }.cycle = purged.cycles) ∧
    (∃ s : State, s = { oneFaulted with maint := .purging { purged with channel := 3, phase := .gap 990000 } } ∧
      s.maint = .purging { purged with channel := 3, phase := .gap 990000 }) ∧
    (∃ s : State, s = { oneFaulted with maint := .suspended { purged with channel := 2 } } ∧
      s.maint = .suspended { purged with channel := 2 } ∧ FirstOk oneFaulted.toBlock 0 2 2) ∧
    (Serving (asked oneFaulted 0x71#8 [0#8, 3#8]) 0x71#8 [0#8, 3#8] [] ∧ channelOk oneFaulted.toBlock 0 3 = true ∧
      channelOk oneFaulted.toBlock 0 0 = false ∧ 4 ≤ field [4#8, 0#8] 0 1 ∧
      field [0#8, 3#8] 1 1 < (oneFaulted.settings.stations.get 0).channels ∧
      (oneFaulted.settings.stations.get 0).channels ≤ field [0#8, 4#8] 1 1) :=
  ⟨⟨_, rfl, asked_serving _ _ rfl rfl, by decide +kernel⟩, ⟨oneFaulted_first.1, oneFaulted_first.2.2.2⟩,
    fun _ _ => asked_serving _ _ rfl rfl, by decide, ⟨_, rfl, rfl⟩, ⟨_, rfl, rfl, oneFaulted_first.2.1⟩,
    ⟨asked_serving _ _ rfl rfl, by decide +kernel⟩⟩

/-- A shot over at its last microsecond, a gap with another channel, and a gap after the last channel; a purge that waits
for its shot; a calibration before its first shot, 100 ms after one, and a microsecond less; a seventh and an eighth
delay with the feedback on, and a shot with it off. -/
theorem test_hypotheses_MaintenanceRunsToItsEnd :
    (∃ s : State, s = { oneFaulted with maint := .purging { purged with phase := .shot 500000 } } ∧ s.resetting = none ∧
      s.maint = .purging { purged with phase := .shot 500000 } ∧ 500000 + purged.onTime * 1000 ≤ s.clock) ∧
    (∃ s : State, s = { oneFaulted with maint := .purging { purged with phase := .gap 500000 } } ∧
      s.maint = .purging { purged with phase := .gap 500000 } ∧ 500000 + purged.gap * 1000 ≤ s.clock ∧
      1 ≤ purged.cycle ∧ purged.cycle < purged.cycles) ∧
    (FirstOk oneFaulted.toBlock 0 2 2 ∧ NoneOk oneFaulted.toBlock 0 4 ∧ FirstOk oneFaulted.toBlock 0 0 1) ∧
    purged.phase = .waiting ∧
    (∃ c : Calibration, c = ⟨0, 1, [], some 900000, none⟩ ∧ c.shot = none ∧ c.lastStart = some 900000 ∧
      900000 + 100000 ≤ oneFaulted.clock ∧ oneFaulted.clock < 900001 + 100000) ∧
    (∃ (b : Block) (c : Calibration),
      b = { oneFaulted.toBlock with chain := { ready.chain with feedback := List.replicate 128 true }, maint := .calibrating c } ∧
      c = ⟨0, 1, List.replicate 6 5000, some 900000, some 900000⟩ ∧ c.shot = some 900000 ∧
      b.chain.feedback.getD ((b.config c.station).firstOutput + c.channel) false = true ∧
      (c.delays ++ [(b.clock - 900000 + 99) / 100 * 100]).length < 8 ∧
      8 ≤ (5000 :: c.delays ++ [(b.clock - 900000 + 99) / 100 * 100]).length ∧
      ready.chain.feedback.getD ((b.config c.station).firstOutput + c.channel) false = false) ∧
    ((List.replicate 8 262143).sum + 7) / 8 = 262143 ∧ 262143 < ((List.replicate 8 262144).sum + 7) / 8 :=
  ⟨⟨_, rfl, rfl, rfl, by decide⟩, ⟨_, rfl, rfl, by decide, by decide⟩,
    ⟨oneFaulted_first.2.1, oneFaulted_first.2.2.2, oneFaulted_first.1⟩, rfl, ⟨_, rfl, by decide +kernel⟩,
    ⟨_, _, rfl, rfl, by decide +kernel⟩, by decide, by decide⟩

theorem test_hypotheses_RecoveryRequestsAreTakenInHand :
    (∃ s : State, s = asked (inLine ready .fault) 0x80#8 [] ∧ Serving s 0x80#8 [] [] ∧ s.line.state = .fault ∧
      s.line.halt.taken = false ∧ s.line.state ≠ .startup) ∧
    (∃ s : State, s = asked ready 0x81#8 [] ∧ Serving s 0x81#8 [] [] ∧ ∀ copy, s.store.activity ≠ .saving copy) ∧
    (∃ s : State, s = { ready with store := { ready.store with activity := .saving ready.settings } } ∧
      s.store.activity = .saving ready.settings ∧ s.line.state ≠ .fault) :=
  ⟨⟨_, rfl, asked_serving _ _ rfl rfl, by decide⟩,
    ⟨_, rfl, asked_serving _ _ rfl rfl, fun _ h => StoreActivity.noConfusion h⟩, ⟨_, rfl, rfl, by decide⟩⟩

theorem test_hypotheses_ResetCausesBlankTheBlocks :
    (running.resetLine = false ∧ running.resetting = none) ∧ StoreActivity.isSaving (.saving ready.settings) = true ∧
    (∃ s : State, s = { running with resetting := some ⟨0, true, false, false, none⟩ } ∧ s.resetLine = false ∧
      s.resetting = some ⟨0, true, false, false, none⟩) :=
  ⟨by decide, rfl, ⟨_, rfl, rfl, rfl⟩⟩

/-- Each cause alone and all three together, over at their last microsecond; the supply one microsecond short. -/
theorem test_hypotheses_ResetEndsWhenEveryCauseDoes :
    (∃ s : State, s = { ready with resetting := some ⟨999900, true, true, true, some 990000⟩ } ∧
      s.resetting = some ⟨999900, true, true, true, some 990000⟩ ∧ 990000 + 10000 ≤ s.clock ∧ s.resetLine = false ∧
      999900 + 100 ≤ s.clock) ∧
    (∃ s : State, s = { ready with resetting := some ⟨999901, true, true, false, none⟩ } ∧
      (s.resetting.bind (·.supplyAbove)) = none ∧ s.clock < 999901 + 100 ∧ s.clock < 990001 + 10000) :=
  ⟨⟨_, rfl, by decide⟩, ⟨_, rfl, by decide⟩⟩

/-! ### One command each -/

theorem test_a_crossing_count_moves_the_slice :
    (after (.encoderCount true false []) { ready with pos := { ready.pos with n := 7, x := 7 } }).pos.slice = 1 := by decide +kernel

theorem test_a_skipped_state_is_not_counted :
    (after (.encoderCount true true []) ready).pos.n = 0 ∧ (after (.encoderCount true true []) ready).encB = true := by decide +kernel

theorem test_a_reverse_count_past_the_limit_faults :
    (after (.encoderCount false true []) { running with pos := { running.pos with n := -64 } }).line.fault = .reverse := by decide +kernel

theorem test_a_gate_of_1640_counts_is_overspeed :
    (after .speedGateExpiry { running with pos := { running.pos with n := 1640, x := 1640 } }).line.state = .fault ∧
      (after .speedGateExpiry { running with pos := { running.pos with n := 1639, x := 1639 } }).line.state = .run := by decide +kernel

theorem test_a_take_admits_the_piece :
    (after .take detecting).track.table.map (·.tag) = [9] ∧ (after .take detecting).intake.tallies.admitted = 1 := by decide +kernel

theorem test_a_due_commit_is_made_at_the_take :
    ((after .take
        { detecting with pos := { detecting.pos with slice := 200 } }).track.table.map fun r =>
          (r.slots.get 0).map (·.state)) = [some .committed] := by decide +kernel

theorem test_a_take_in_standby_is_not_running :
    (after .take (inLine detecting .standby)).intake.tallies.notRunning = 1 := by decide +kernel

theorem test_a_start_byte_opens_a_detection_frame :
    (after (.detectionByte 0xD3#8) ready).intake.receiver = .inFrame [] 1000000 := by decide +kernel

theorem test_a_sync_byte_opens_a_control_frame :
    (after (.controlByte 0xC5#8 true) ready).msg.receiver = .inFrame [] 1000000 ∧
      (after (.controlByte 0xC5#8 false) ready).msg.receiver = .seeking := by decide +kernel

theorem test_a_load_from_a_failing_image_loses_the_settings :
    (after .loadEnd State.reset).line.settingsLost = true ∧ (after .loadEnd State.reset).chain.census = true := by decide +kernel

theorem test_a_census_of_two_boards_ends_startup :
    (after (.censusEnd (List.replicate 16 (some 64))) (after .loadEnd State.reset)).line.state = .standby ∧
      (after (.censusEnd (List.replicate 16 (some 64))) (after .loadEnd State.reset)).chain.boards = 2 := by decide +kernel

/-- HALT taken and released again within the census of CLEAR FAULT (R144). -/
theorem test_a_halt_during_the_census_keeps_the_fault :
    ∃ s : State,
      s =
        { asked ready 0x80#8 [] with
          line :=
            { ready.line with
              state := .fault, fault := .chain, halt := ⟨true, false, some 999000⟩ } } ∧
      ∃ t : State,
        t =
          after .haltRelease
            (let u := after .haltAssertion (after .clearFault s)
             { u with line := { u.line with halt := { u.line.halt with level := false, since := some 999000 } } }) ∧
        t.line.halt.taken = false ∧
        (after (.censusEnd (List.replicate 16 (some 64))) t).line.state = .fault ∧
        (after (.censusEnd (List.replicate 16 (some 64))) t).line.fault = .chain :=
  ⟨_, rfl, _, rfl, by decide +kernel⟩

theorem test_a_whole_marker_stores_the_feedback :
    (after (.refreshTimerExpiry wholeReturn) running).chain.feedback.take 2 = [true, false] := by decide +kernel

theorem test_a_lost_marker_faults_the_line :
    (after (.refreshTimerExpiry []) running).line.fault = .chain ∧
      ((after (.refreshTimerExpiry []) running).stations.get 0).state = .disarmed := by decide +kernel

theorem test_an_active_entry_sends_its_output_on :
    (after (.refreshTimerExpiry wholeReturn) (listed .active (.active 0 false))).chain.outputs.take 2 = [true, false] := by decide +kernel

theorem test_an_arm_starts_the_settle_time :
    ((after .arm (asked { working with stations := ready.stations } 0x21#8 [0#8])).stations.get 0).state = .arming ∧
      ((after .arm (asked { working with stations := ready.stations } 0x21#8 [0#8])).stations.get 0).enable = true := by decide +kernel

theorem test_a_disarm_holds_the_classes :
    ((after .disarm (asked running 0x22#8 [0#8])).settings.routes.map (·.hold)).take 3 = [false, true, false] := by decide +kernel

theorem test_a_cancel_retires_a_committed_piece :
    (after .cancel (asked (listed .committed .committed) 0x40#8 [5#8, 0#8])).track.table = [] ∧
      (after .cancel (asked (listed .committed .committed) 0x40#8 [5#8, 0#8])).lists.get 0 = [] := by decide +kernel

theorem test_a_cancel_of_the_last_piece_ends_the_drain :
    (after .cancel
        (asked (inLine (listed .committed .committed) .draining) 0x40#8 [5#8, 0#8])).line.state = .standby := by
  decide +kernel

theorem test_an_amend_to_an_empty_class_retires_the_piece :
    (after .amend (asked tracking 0x41#8 [5#8, 0#8, 0#8])).track.table = [] ∧
      ((after .amend (asked tracking 0x41#8 [5#8, 0#8, 0#8])).track.outcomes.get 0)[10]? = some 1 := by decide +kernel

theorem test_a_write_of_a_held_route_sets_its_hold :
    ((after .write (asked ready 0x31#8 [1#8, 0x13#8, 0#8, 0#8])).settings.routes.map fun r => (r.priority, r.hold)).take 2 =
      [(3, true), (0, false)] := by decide +kernel

theorem test_a_lock_is_sealed_for_good :
    (after .lockSealed (asked ready 0x62#8 [2#8])).store.lock = .sealed ∧
      (after .lockOpen
        (asked { ready with store := { ready.store with lock := .sealed } } 0x62#8 [0#8])).store.lock = .sealed := by decide +kernel

theorem test_a_purge_passes_a_faulted_channel :
    (after .purgeStart (asked oneFaulted 0x70#8 [0#8, 0#8, 0xF4#8, 1#8, 0xF4#8, 1#8, 16#8])).maint = .purging purged := by decide +kernel

theorem test_a_dip_blanks_the_blocks :
    (after .supplyDip running).line.state = .startup ∧ (after .supplyDip running).line.record = ⟨.supplyDip, none, none⟩ := by decide +kernel

theorem test_an_empty_queue_lets_a_microsecond_pass :
    step ready = .next { ready with clock := 1000001 } := rfl

end Sys2Proof.Tests
end

section
/-! PROOFS. The ranks of the four stations (R63): what a rotation does to them, and that they rotate at a take and at an
AMEND exactly as the creation of the slots says. -/

namespace Sys2Proof

namespace Four

variable {α : Type}

theorem toList_eq_ofFn (f : Four α) : f.toList = List.ofFn f.get := rfl

theorem forall_mem_toList {p : α → Prop} (f : Four α) : (∀ a ∈ f.toList, p a) ↔ ∀ st, p (f.get st) := by
  rw [toList_eq_ofFn]
  exact List.forall_mem_ofFn_iff

/-- Four numbers are the ranks 0 to 3 in some order where they are below 4 and no two stations share one. -/
theorem toList_perm_ranks_iff (ranks : Four Nat) :
    ranks.toList.Perm [0, 1, 2, 3] ↔ (∀ st, ranks.get st < 4) ∧ Function.Injective ranks.get := by
  have below (x : Nat) : x ∈ [0, 1, 2, 3] ↔ x < 4 := by
    simp only [List.mem_cons, List.not_mem_nil, or_false]
    omega
  constructor
  · intro h
    refine ⟨(forall_mem_toList ranks).mp fun x hx => (below x).mp (h.mem_iff.mp hx), ?_⟩
    rw [← List.nodup_ofFn, ← toList_eq_ofFn, h.nodup_iff]
    decide
  · rintro ⟨bound, inj⟩
    have nodup : ranks.toList.Nodup := List.nodup_ofFn.mpr inj
    have subset : ranks.toList ⊆ [0, 1, 2, 3] :=
      (forall_mem_toList ranks).mpr fun st => (below _).mpr (bound st)
    exact (nodup.subperm subset).perm_of_length_le (Nat.le_refl 4)

end Four

namespace Machine

/-! ### The rotation -/

/-- A rotation station by station (R63). -/
@[simp] theorem rotateRanks_get (ranks : Four Nat) (chosen st : StationId) :
    (rotateRanks ranks chosen).get st =
      if st = chosen then 0 else if ranks.get st < ranks.get chosen then ranks.get st + 1 else ranks.get st := by
  simp [rotateRanks]

/-- A choice of the station already at rank 0 leaves all four ranks. -/
theorem rotateRanks_of_first {ranks : Four Nat} {chosen : StationId} (h : ranks.get chosen = 0) :
    rotateRanks ranks chosen = ranks := by
  refine Four.ext_get fun st => ?_
  rw [rotateRanks_get]
  split
  next same => rw [same, h]
  next other => rw [if_neg (by omega)]

/-- The ranks stay below 4, and no two stations come to share one: those below the chosen one's former rank move up into
the place it leaves. -/
theorem rotateRanks_perm {ranks : Four Nat} (h : ranks.toList.Perm [0, 1, 2, 3]) (chosen : StationId) :
    (rotateRanks ranks chosen).toList.Perm [0, 1, 2, 3] := by
  obtain ⟨bound, inj⟩ := (Four.toList_perm_ranks_iff ranks).mp h
  refine (Four.toList_perm_ranks_iff _).mpr ⟨fun st => ?_, fun st other same => ?_⟩
  · have := bound st
    have := bound chosen
    rw [rotateRanks_get]
    split_ifs <;> omega
  · have apart {i : StationId} (hi : i ≠ chosen) : ranks.get i ≠ ranks.get chosen := fun e => hi (inj e)
    have moved {i : StationId} (hi : i ≠ chosen) : (rotateRanks ranks chosen).get i ≠ 0 := by
      have := apart hi
      rw [rotateRanks_get, if_neg hi]
      split_ifs <;> omega
    have first : (rotateRanks ranks chosen).get chosen = 0 := by simp
    by_cases hs : st = chosen
    · subst hs
      by_contra ho
      exact moved (Ne.symm ho) (same.symm.trans first)
    · by_cases ho : other = chosen
      · subst ho
        exact absurd (same.trans first) (moved hs)
      · have := apart hs
        have := apart ho
        rw [rotateRanks_get, rotateRanks_get, if_neg hs, if_neg ho] at same
        apply inj
        split_ifs at same <;> omega

/-! ### The creation of slots, and the commits after it -/

/-- The ranks rotate where a LEAST_LOADED delivery finds a station to choose, and only there. -/
theorem createSlots_ranks (b : Block) (e : RouteEntry) (position : Nat) :
    (createSlots b e position).2 =
      if e.delivery = .leastLoaded then (chooseStation b e).elim b.ranks (rotateRanks b.ranks) else b.ranks := by
  unfold createSlots
  cases e.delivery with
  | fixed => rfl
  | all => rfl
  | leastLoaded => cases chooseStation b e <;> rfl

/-- A choice looks at lists, stations, ranks and settings: what the intake unit holds does not matter. -/
theorem createSlots_setIntake (b : Block) (u : IntakeUnit) (e : RouteEntry) (position : Nat) :
    createSlots (b.setIntake u) e position = createSlots b e position := rfl

theorem commitDueSlots_kept (tag : Nat) (b : Block) : b.Kept (commitDueSlots tag b) := by
  refine (Block.Kept.foldl (fun acc st => ?_) allStations b).trans (retireFinished_kept _)
  split
  · exact (Block.Kept.of_outside (commitAt_same st tag acc).outside).trans (retireFinished_kept _)
  · exact Block.Kept.refl acc

theorem settleRecords_kept (b : Block) : b.Kept (settleRecords b) :=
  (retireFinished_kept b).trans (drainDone_kept _)

/-! ### A take -/

theorem admitPiece_ranks (r : DetectionRecord) (b : Block) :
    (admitPiece r b).ranks = (createSlots b (b.route r.cls) (rebuild b.pos.x r.stamp).toNat).2 :=
  (commitDueSlots_kept _ _).ranks

theorem takeOne_ranks {b : Block} {r : DetectionRecord} {rest : List DetectionRecord}
    (h : b.intake.queue = r :: rest) :
    (takeOne b).ranks =
      if dispositionOf b r = .admitted then (createSlots b (b.route r.cls) (rebuild b.pos.x r.stamp).toNat).2
      else b.ranks := by
  simp only [takeOne, h]
  split
  · rw [admitPiece_ranks, createSlots_setIntake]
    rfl
  · rfl

/-! ### An AMEND -/

/-- The route tests pass where the entry is not held, names a station, and asks no more confidence than there is (R28). -/
theorem routeTest_none_iff (e : RouteEntry) (confidence : Nat) :
    routeTest e confidence = none ↔
      e.hold = false ∧ (∃ st, e.stations.get st = true) ∧ e.minConfidence ≤ confidence := by
  have empty : e.stations = Four.all4 false ↔ ∀ st, e.stations.get st = false :=
    ⟨fun h st => by rw [h, Four.get_all4], fun h => Four.ext_get fun st => by rw [h st, Four.get_all4]⟩
  have named : (∃ st, e.stations.get st = true) ↔ ¬ e.stations = Four.all4 false := by simp [empty]
  rw [named, routeTest]
  split_ifs with held none_named unsure
  · simp [held]
  · simp [none_named]
  · simp [Nat.not_le.mpr unsure]
  · simp [held, none_named, Nat.not_lt.mp unsure]

theorem Slot.amendable_iff (sl : Slot) :
    sl.amendable = true ↔ sl.state = .waiting ∨ sl.state = .final .notChosen := by
  unfold Slot.amendable
  cases sl.state <;> simp

/-- Only WAITING and NOT_CHOSEN slots let a record be amended (R48). -/
theorem ParticleRecord.amendable_iff (r : ParticleRecord) :
    r.amendable = true ↔
      ∀ st sl, r.slots.get st = some sl → sl.state = .waiting ∨ sl.state = .final .notChosen := by
  unfold ParticleRecord.amendable
  rw [List.all_eq_true, Four.forall_mem_toList]
  refine forall_congr' fun st => ?_
  cases r.slots.get st with
  | none => simp
  | some sl => simp [Slot.amendable_iff]

/-- An AMEND rotates the ranks as its rebuild does, where the slots allow one and the new entry's tests pass (R48, R50). -/
theorem amendRecord_ranks (cls : Nat) (r : ParticleRecord) (b : Block) :
    (amendRecord cls r b).1.ranks =
      if r.amendable = true ∧ routeTest (b.route cls) r.confidence = none then
        (createSlots b (b.route cls) r.position).2
      else b.ranks := by
  unfold amendRecord
  cases r.amendable with
  | false => rfl
  | true =>
    cases routeTest (b.route cls) r.confidence with
    | none => exact (settleRecords_kept _).ranks.trans (commitDueSlots_kept _ _).ranks
    | some d => exact (settleRecords_kept _).ranks

theorem amendRecord_ranks_rebuilt {cls : Nat} {r : ParticleRecord} {b : Block}
    (slots : ∀ st sl, r.slots.get st = some sl → sl.state = .waiting ∨ sl.state = .final .notChosen)
    (hold : (b.route cls).hold = false) (named : ∃ st, (b.route cls).stations.get st = true)
    (confident : (b.route cls).minConfidence ≤ r.confidence) :
    (amendRecord cls r b).1.ranks = (createSlots b (b.route cls) r.position).2 := by
  rw [amendRecord_ranks]
  exact if_pos ⟨r.amendable_iff.mpr slots, (routeTest_none_iff _ _).mpr ⟨hold, named, confident⟩⟩

/-- One slot past WAITING or one failed test bars the choice. -/
theorem amendRecord_ranks_barred {cls : Nat} {r : ParticleRecord} {b : Block}
    (barred : (∃ st sl, r.slots.get st = some sl ∧ sl.state ≠ .waiting ∧ sl.state ≠ .final .notChosen) ∨
      (b.route cls).hold = true ∨ (∀ st, (b.route cls).stations.get st = false) ∨
      r.confidence < (b.route cls).minConfidence) :
    (amendRecord cls r b).1.ranks = b.ranks := by
  rw [amendRecord_ranks]
  refine if_neg ?_
  rintro ⟨slots, tests⟩
  obtain ⟨hold, ⟨st, named⟩, confident⟩ := (routeTest_none_iff _ _).mp tests
  rcases barred with ⟨other, sl, found, notWaiting, chosen⟩ | held | unnamed | unsure
  · exact (r.amendable_iff.mp slots other sl found).elim notWaiting chosen
  · simp [hold] at held
  · simp [unnamed st] at named
  · omega

/-! ### The statement -/

/-- Settles O17: the rotation station by station, and at a take and at an AMEND through the creation of the slots. -/
theorem choiceRotatesTheRanks : Obligations.ChoiceRotatesTheRanks := by
  unfold Obligations.ChoiceRotatesTheRanks
  refine ⟨fun ranks chosen st => ⟨?_, fun other below => ?_, fun other above => ?_, rotateRanks_of_first,
    fun h => rotateRanks_perm h chosen⟩, fun b e position => ?_, fun b r rest => takeOne_ranks, ?_⟩
  · simp
  · simp [other, below]
  · simp [other, above]
  · rw [createSlots_ranks]
    cases chooseStation b e <;> rfl
  · rintro b cls r e rfl
    exact ⟨amendRecord_ranks_rebuilt, amendRecord_ranks_barred⟩

end Machine

end Sys2Proof
end

section
/-! PROOFS. SELECT and READ (R159 to R161): what each does by its own checks, and the bytes of the pointer and of the
table's entries. -/

namespace Sys2Proof.Machine

/-! ### Codes and indices that SELECT takes -/

theorem stepOf_code (step : PointerStep) : stepOf step.code = some step := by cases step <;> rfl

theorem tableOf_eq_none {n : Nat} (h : 2 ≤ n) : tableOf n = none := by
  obtain ⟨k, rfl⟩ := Nat.exists_eq_add_of_le' h
  rfl

theorem stepOf_eq_none {n : Nat} (h : 3 ≤ n) : stepOf n = none := by
  obtain ⟨k, rfl⟩ := Nat.exists_eq_add_of_le' h
  rfl

theorem eq_table_code_of_mem {n : Nat} {t : TableName} (h : (n, t) ∈ [(0, .route), (1, .pattern)]) : n = t.code := by
  simp only [List.mem_cons, Prod.mk.injEq, List.not_mem_nil, or_false] at h
  rcases h with ⟨rfl, rfl⟩ | ⟨rfl, rfl⟩ <;> rfl

theorem eq_step_code_of_mem {n : Nat} {step : PointerStep} (h : (n, step) ∈ [(0, .hold), (1, .up), (2, .down)]) :
    n = step.code := by
  simp only [List.mem_cons, Prod.mk.injEq, List.not_mem_nil, or_false] at h
  rcases h with ⟨rfl, rfl⟩ | ⟨rfl, rfl⟩ | ⟨rfl, rfl⟩ <;> rfl

/-- A table's code and its last index, in the words of the statement. -/
theorem tableOf_indexOk_of_mem {part : Partition} {n last : Nat} {t : TableName}
    (h : (n, t, last) ∈ [(0, .route, 63), (1, .pattern, 7 + part.ramPatterns)]) :
    tableOf n = some t ∧ ∀ index, indexOk t index part = true ↔ index ≤ last := by
  simp only [List.mem_cons, Prod.mk.injEq, List.not_mem_nil, or_false] at h
  rcases h with ⟨rfl, rfl, rfl⟩ | ⟨rfl, rfl, rfl⟩
  · exact ⟨rfl, fun index => decide_eq_true_iff⟩
  · exact ⟨rfl, fun index => decide_eq_true_iff⟩

/-! ### SELECT's and READ's own checks -/

section

variable {p : List Byte} {b : Block} {t : TableName} {step : PointerStep}

theorem ownSelect_placed (table : tableOf (field p 0 1) = some t) (code : stepOf (field p 2 1) = some step)
    (inside : indexOk t (field p 1 1) b.settings.partition = true) :
    ownSelect p b =
      answer (setPointer ⟨t, field p 1 1, step⟩ b) (pointerBytes ⟨t, field p 1 1, step⟩) := by
  simp [ownSelect, table, code, inside]

theorem ownSelect_outside (table : tableOf (field p 0 1) = some t)
    (outside : ¬ indexOk t (field p 1 1) b.settings.partition = true) : ownSelect p b = refuse .badArg b := by
  cases code : stepOf (field p 2 1) <;> simp [ownSelect, table, code, outside]

theorem ownSelect_uncoded (h : 2 ≤ field p 0 1 ∨ 3 ≤ field p 2 1) : ownSelect p b = refuse .badArg b := by
  rcases h with table | code
  · simp [ownSelect, tableOf_eq_none table]
  · simp [ownSelect, stepOf_eq_none code]

theorem ownRead_counted (least : 1 ≤ field p 0 1) (most : field p 0 1 ≤ 8) :
    ownRead p b =
      answer (setPointer ((Pointer.move b.settings.partition)^[field p 0 1] b.msg.pointer) b)
        (pointerBytes ((Pointer.move b.settings.partition)^[field p 0 1] b.msg.pointer) ++
          (List.range (field p 0 1)).flatMap fun i =>
            entryAt b ((Pointer.move b.settings.partition)^[i] b.msg.pointer)) := by
  simp only [ownRead, if_pos (And.intro least most), pointerAfter_eq, pointerPath_eq, List.flatMap_map]

theorem ownRead_uncounted (h : field p 0 1 = 0 ∨ 8 < field p 0 1) : ownRead p b = refuse .badArg b :=
  if_neg (by omega)

/-- An entry is read from the settings alone. -/
theorem entryAt_setMsg (m : MessageUnit) (q : Pointer) : entryAt (b.setMsg m) q = entryAt b q := by
  obtain ⟨t, index, step⟩ := q
  cases t <;> rfl

end

/-! ### Serving SELECT and READ -/

section

variable {s : State} {p : List Byte} {rest : List Frame}

theorem execSelect_eq_own (h : Serving s 0x30#8 p rest) (past : s.line.state ≠ .startup) (len : p.length = 3) :
    exec .select s = serve (kindIs 0x30) ownSelect s :=
  serve_plain h rfl past len ownSelect

theorem execRead_eq_own (h : Serving s 0x32#8 p rest) (past : s.line.state ≠ .startup) (len : p.length = 1) :
    exec .read s = serve (kindIs 0x32) ownRead s :=
  serve_plain h rfl past len ownRead

theorem exec_select_placed {t : TableName} {step : PointerStep} (h : Serving s 0x30#8 p rest)
    (past : s.line.state ≠ .startup) (len : p.length = 3) (table : tableOf (field p 0 1) = some t)
    (code : stepOf (field p 2 1) = some step) (inside : indexOk t (field p 1 1) s.settings.partition = true) :
    exec .select s = .next
      { s with
        msg :=
          ({ s.msg.serving 0x30#8 rest with pointer := ⟨t, field p 1 1, step⟩ }).replying s.clock 0x30#8 .ok
            (pointerBytes ⟨t, field p 1 1, step⟩) } := by
  rw [execSelect_eq_own h past len]
  exact serve_replied h rfl (ownSelect_placed table code inside)

theorem exec_select_refused (h : Serving s 0x30#8 p rest) (past : s.line.state ≠ .startup) (len : p.length = 3)
    (bad : ∀ m, ownSelect p (s.toBlock.setMsg m) = refuse .badArg (s.toBlock.setMsg m)) :
    exec .select s = .next { s with msg := s.answered 0x30#8 rest .badArg [] } := by
  rw [execSelect_eq_own h past len]
  exact serve_refused h rfl (bad _)

theorem exec_read_counted (h : Serving s 0x32#8 p rest) (past : s.line.state ≠ .startup) (len : p.length = 1)
    (least : 1 ≤ field p 0 1) (most : field p 0 1 ≤ 8) :
    exec .read s = .next
      { s with
        msg :=
          ({ s.msg.serving 0x32#8 rest with
              pointer := (Pointer.move s.settings.partition)^[field p 0 1] s.msg.pointer }).replying s.clock 0x32#8 .ok
            (pointerBytes ((Pointer.move s.settings.partition)^[field p 0 1] s.msg.pointer) ++
              (List.range (field p 0 1)).flatMap fun i =>
                entryAt s.toBlock ((Pointer.move s.settings.partition)^[i] s.msg.pointer)) } := by
  have own := ownRead_counted (b := s.toBlock.setMsg (s.msg.serving 0x32#8 rest)) least most
  simp only [entryAt_setMsg] at own
  rw [execRead_eq_own h past len]
  exact serve_replied h rfl own

theorem exec_read_uncounted (h : Serving s 0x32#8 p rest) (past : s.line.state ≠ .startup) (len : p.length = 1)
    (count : field p 0 1 = 0 ∨ 8 < field p 0 1) :
    exec .read s = .next { s with msg := s.answered 0x32#8 rest .badArg [] } := by
  rw [execRead_eq_own h past len]
  exact serve_refused h rfl (ownRead_uncounted count)

end

/-! ### The pointer's bytes (chapter 11 section 3) -/

theorem byte_eq_ofNat {n : Nat} (h : n < 256) : byte n = [BitVec.ofNat 8 n] := by
  unfold byte le
  rw [if_pos (by simpa using h)]
  rfl

theorem pointerBytes_codes (t : TableName) {i : Nat} (step : PointerStep) (h : i ≤ 255) :
    pointerBytes ⟨t, i, step⟩ = [BitVec.ofNat 8 t.code, BitVec.ofNat 8 i, BitVec.ofNat 8 step.code] := by
  have table : t.code < 256 := by cases t <;> decide
  have code : step.code < 256 := by cases step <;> decide
  have index : i < 256 := by omega
  simp only [pointerBytes, byte_eq_ofNat table, byte_eq_ofNat code, byte_eq_ofNat index, List.cons_append,
    List.nil_append]

/-! ### A route entry's bytes (chapter 11 section 4) -/

theorem flagCode_lt_two (f : Bool) : flagCode f < 2 := by cases f <;> decide

theorem flagCode_eq_one_iff (f : Bool) : flagCode f = 1 ↔ f = true := by cases f <;> decide

theorem delivery_code_le (d : Delivery) : d.code ≤ 2 := by cases d <;> decide

theorem action_code_le (a : Action) : a.code ≤ 1 := by cases a <;> decide

theorem delivery_code_mem (d : Delivery) : (d.code, d) ∈ [(0, .fixed), (1, .leastLoaded), (2, .all)] := by
  cases d <;> decide

theorem action_code_mem (a : Action) : (a.code, a) ∈ [(0, .eject), (1, .shield)] := by cases a <;> decide

theorem bitsValue_toList_bit (f : Four Bool) (st : StationId) :
    bitsValue f.toList / 2 ^ st.val % 2 = flagCode (f.get st) := by
  rw [bitsValue_bit]
  fin_cases st <;> rfl

/-- What stands above the four station bits does not reach them. -/
theorem low_bit_add_high (n k : Nat) (st : StationId) : (n + 16 * k) / 2 ^ st.val % 2 = n / 2 ^ st.val % 2 := by
  fin_cases st <;> simp <;> omega

@[simp] theorem routeBytes_length (r : RouteEntry) : (routeBytes r).length = 4 := by simp [routeBytes]

/-- The first byte holds the stations, and above them delivery, action and report. -/
theorem field_routeBytes_first (r : RouteEntry) :
    field (routeBytes r) 0 1 =
      bitsValue r.stations.toList + 16 * (r.delivery.code + 4 * r.action.code + 8 * flagCode r.report) := by
  have stations : bitsValue r.stations.toList < 16 := bitsValue_lt r.stations.toList
  have delivery := delivery_code_le r.delivery
  have action := action_code_le r.action
  have report := flagCode_lt_two r.report
  unfold routeBytes
  simp only [List.append_assoc]
  rw [field_byte_here _ _ (by omega)]
  omega

theorem field_routeBytes_second {r : RouteEntry} (h : r.priority ≤ 15) :
    field (routeBytes r) 1 1 = r.priority + 16 * flagCode r.hold := by
  have hold := flagCode_lt_two r.hold
  unfold routeBytes
  simp only [List.append_assoc]
  rw [field_byte_skip _ _ _ _ (by decide), field_byte_here _ _ (by omega)]

theorem field_routeBytes_pattern {r : RouteEntry} (h : r.pattern ≤ 255) : field (routeBytes r) 2 1 = r.pattern := by
  unfold routeBytes
  simp only [List.append_assoc]
  rw [field_byte_skip _ _ _ _ (by decide), field_byte_skip _ _ _ _ (by decide), field_byte_here _ _ (by omega)]

theorem field_routeBytes_confidence {r : RouteEntry} (h : r.minConfidence ≤ 255) :
    field (routeBytes r) 3 1 = r.minConfidence := by
  unfold routeBytes
  rw [field_skip _ _ 3 1 3 (by simp) (by decide), field_byte _ (by omega)]

/-- The bytes of an entry whose fields fit spell that entry. -/
theorem routeBytes_spells {r : RouteEntry} (priority : r.priority ≤ 15) (pattern : r.pattern ≤ 255)
    (confidence : r.minConfidence ≤ 255) : SpellsRoute (routeBytes r) r := by
  have stations : bitsValue r.stations.toList < 16 := bitsValue_lt r.stations.toList
  have delivery := delivery_code_le r.delivery
  have action := action_code_le r.action
  have report := flagCode_lt_two r.report
  have hold := flagCode_lt_two r.hold
  have first := field_routeBytes_first r
  have second := field_routeBytes_second priority
  refine ⟨fun st => ?_, ?_, ?_, ?_, ?_, ?_, (field_routeBytes_pattern pattern).symm,
    (field_routeBytes_confidence confidence).symm⟩
  · rw [first, low_bit_add_high, bitsValue_toList_bit, flagCode_eq_one_iff]
  · rw [show field (routeBytes r) 0 1 / 16 % 4 = r.delivery.code by omega]
    exact delivery_code_mem _
  · rw [show field (routeBytes r) 0 1 / 64 % 2 = r.action.code by omega]
    exact action_code_mem _
  · rw [show field (routeBytes r) 0 1 / 128 % 2 = flagCode r.report by omega, flagCode_eq_one_iff]
  · omega
  · rw [show field (routeBytes r) 1 1 / 16 % 2 = flagCode r.hold by omega, flagCode_eq_one_iff]

/-- The spare bits of the second byte are 0. -/
theorem field_routeBytes_spare {r : RouteEntry} (h : r.priority ≤ 15) : field (routeBytes r) 1 1 < 32 := by
  have hold := flagCode_lt_two r.hold
  rw [field_routeBytes_second h]
  omega

theorem entryAt_route {b : Block} {i : Nat} {r : RouteEntry} (h : b.settings.routes[i]? = some r) (step : PointerStep) :
    entryAt b ⟨.route, i, step⟩ = routeBytes r := by
  simp [entryAt, Block.route, h]

/-! ### A pattern's bytes (chapter 11 section 4) -/

@[simp] theorem patternBytes_length (x : Pattern) : (patternBytes x).length = 6 := by simp [patternBytes]

theorem patternBytes_carries (x : Pattern) :
    Carries (patternBytes x) [(0, 1, x.lead), (1, 1, x.trail), (2, 1, x.widen), (3, 1, x.minOn), (4, 2, x.maxOn)] := by
  unfold patternBytes
  simp only [List.append_assoc, carries_cons, carries_nil, and_true]
  refine ⟨field_byte_here _ _, fun h => ?_, fun h => ?_, fun h => ?_, fun h => ?_⟩
  all_goals simp (disch := omega) only [field_byte_skip, Nat.reduceSub]
  · exact field_byte_here _ _ h
  · exact field_byte_here _ _ h
  · exact field_byte_here _ _ h
  · exact field_le _ _ h

theorem patternAt_rom {s : Settings} {i : Nat} {x : Pattern} (h : romPatterns[i]? = some x) : patternAt s i = some x := by
  have below : i < 8 := (List.getElem?_eq_some_iff.mp h).1
  rw [patternAt, if_pos below, h]

theorem patternAt_ram {s : Settings} {i : Nat} {x : Pattern} (low : 8 ≤ i) (high : i < 8 + s.partition.ramPatterns)
    (h : s.patterns[i - 8]? = some x) : patternAt s i = some x := by
  rw [patternAt, if_neg (by omega), if_pos high, h]

theorem entryAt_pattern {b : Block} {i : Nat} {x : Pattern} (h : patternAt b.settings i = some x) (step : PointerStep) :
    entryAt b ⟨.pattern, i, step⟩ = patternBytes x := by
  simp [entryAt, h]

/-! ### The statement -/

/-- Settles O48: the two requests through their own checks, the bytes field by field. -/
theorem selectAndReadMoveThePointer : Obligations.SelectAndReadMoveThePointer := by
  unfold Obligations.SelectAndReadMoveThePointer
  refine ⟨fun s p rest past => ⟨fun serving len => ⟨fun t step last table code => ?_, fun uncoded => ?_⟩,
    fun n moved serving len count path => ?_⟩, fun t step i a z table code small => ?_, fun b t i step => ⟨?_, ?_⟩⟩
  · obtain ⟨named, inTable⟩ := tableOf_indexOk_of_mem table
    have stepped : stepOf (field p 2 1) = some step := by rw [eq_step_code_of_mem code, stepOf_code]
    refine ⟨fun inside => ?_, fun outside => ?_⟩
    · exact exec_select_placed serving past len named stepped ((inTable _).mpr inside)
    · exact exec_select_refused serving past len fun _ =>
        ownSelect_outside named fun inside => absurd ((inTable _).mp inside) (by omega)
  · exact exec_select_refused serving past len fun _ => ownSelect_uncoded uncoded
  · obtain rfl : moved = fun i => (Pointer.move s.settings.partition)^[i] s.msg.pointer := funext path
    subst count
    exact ⟨exec_read_counted serving past len, exec_read_uncounted serving past len⟩
  · rw [eq_table_code_of_mem table, eq_step_code_of_mem code]
    exact pointerBytes_codes t step small
  · rintro r rfl stands priority pattern confidence
    rw [entryAt_route stands]
    exact ⟨routeBytes_length r, routeBytes_spells priority pattern confidence, field_routeBytes_spare priority⟩
  · rintro x rfl stands
    have found : patternAt b.settings i = some x := by
      rcases stands with rom | ⟨low, high, ram⟩
      · exact patternAt_rom rom
      · exact patternAt_ram low high ram
    rw [entryAt_pattern found]
    exact ⟨patternBytes_length x, patternBytes_carries x⟩

end Sys2Proof.Machine
end

section
/-! PROOFS. One step: the command at the front of the queue, and that every command answers a next state. -/

namespace Sys2Proof.Machine

/-- Settles O1: the front command by the definition of a step, the microsecond by that of the next time base. -/
theorem stepRunsTheFrontCommand : Obligations.StepRunsTheFrontCommand :=
  ⟨step_front, fun _ idle => step_idle idle⟩

/-- Every command is an event, or an event that happens where it is due: the arms of `exec` written so. -/
theorem exec_eq_eventIf (c : Instr) (s : State) :
    ∃ (due : Bool) (f : Block → Block), exec c s = eventIf due s f := by
  cases c with
  | encoderCount | plantInputLevelChange | powerOn | supplyDip | resetLineRelease | supplyRisesAboveResetThreshold =>
    exact ⟨true, _, rfl⟩
  | _ => exact ⟨_, _, rfl⟩

/-- Settles O2: every command is an event, and no event touches the queue. -/
theorem everyCommandAnswersNext : Obligations.EveryCommandAnswersNext := by
  unfold Obligations.EveryCommandAnswersNext
  intro c s
  obtain ⟨due, f, h⟩ := exec_eq_eventIf c s
  rw [h]
  exact eventIf_answers due s f

end Sys2Proof.Machine
end

section
/-! PROOFS. What the steps of a refresh, of a stop of the line and of a crossing can do to the parts of the state the two
invariants speak of: the table and the lists lose and never gain, stations leave ARMED and never enter it, and every
size stays. -/

namespace Sys2Proof.Machine

/-! ### The relation -/

/-- What tells a record from another and gives its place in the table (R35). -/
def ParticleRecord.key (r : ParticleRecord) : Nat × Nat := (r.tag, r.position)

/-- The enable line is asserted in ARMING and ARMED alone (chapter 7 section 2). -/
def Station.EnableAgrees (x : Station) : Prop := x.enable = true ↔ (x.state = .arming ∨ x.state = .armed)

/-- From `b` to `c` records and entries may go and stations may leave ARMED; nothing is admitted, committed or armed. -/
structure Block.Subsides (b c : Block) : Prop where
  kept : b.Kept c
  resetting : c.resetting = b.resetting
  line : c.line = b.line
  census : c.chain.census = b.chain.census
  boards : c.chain.boards = b.chain.boards
  outputs : b.chain.outputs.length = 128 → c.chain.outputs.length = 128
  feedback : b.chain.feedback.length = 128 → c.chain.feedback.length = 128
  sliceLength : c.settings.sliceLength = b.settings.sliceLength
  routes : c.settings.routes.length = b.settings.routes.length
  patterns : c.settings.patterns = b.settings.patterns
  partition : c.settings.partition = b.settings.partition
  buffer : c.msg.buffer = b.msg.buffer
  pointer : c.msg.pointer = b.msg.pointer
  reports : b.msg.reports.length ≤ 32 → c.msg.reports.length ≤ 32
  nextReport : b.msg.nextReport < 65536 → c.msg.nextReport < 65536
  table : (c.track.table.map ParticleRecord.key).Sublist (b.track.table.map ParticleRecord.key)
  lists : ∀ st, (c.lists.get st).length ≤ (b.lists.get st).length
  channels : ∀ st, (c.stations.get st).channels.length = (b.stations.get st).channels.length
  enable : ∀ st, (b.stations.get st).EnableAgrees → (c.stations.get st).EnableAgrees
  disarmed : ∀ st, (b.stations.get st).state = .disarmed → (c.stations.get st).state = .disarmed
  left : ∀ st, (c.stations.get st).state ≠ .armed → (b.stations.get st).state ≠ .armed ∨ c.lists.get st = []

namespace Block.Subsides

theorem refl (b : Block) : b.Subsides b := by
  constructor <;> first | exact Block.Kept.refl b | simp
  exact fun st h => .inl h

theorem trans {a b c : Block} (h : a.Subsides b) (k : b.Subsides c) : a.Subsides c where
  kept := h.kept.trans k.kept
  resetting := k.resetting.trans h.resetting
  line := k.line.trans h.line
  census := k.census.trans h.census
  boards := k.boards.trans h.boards
  outputs x := k.outputs (h.outputs x)
  feedback x := k.feedback (h.feedback x)
  sliceLength := k.sliceLength.trans h.sliceLength
  routes := k.routes.trans h.routes
  patterns := k.patterns.trans h.patterns
  partition := k.partition.trans h.partition
  buffer := k.buffer.trans h.buffer
  pointer := k.pointer.trans h.pointer
  reports x := k.reports (h.reports x)
  nextReport x := k.nextReport (h.nextReport x)
  table := k.table.trans h.table
  lists st := (k.lists st).trans (h.lists st)
  channels st := (k.channels st).trans (h.channels st)
  enable st x := k.enable st (h.enable st x)
  disarmed st x := k.disarmed st (h.disarmed st x)
  left st x := by
    rcases k.left st x with notArmed | gone
    · rcases h.left st notArmed with before | empty
      · exact .inl before
      · have := k.lists st
        rw [empty] at this
        exact .inr (List.length_eq_zero_iff.mp (Nat.le_zero.mp this))
    · exact .inr gone

theorem foldl {α : Type} {f : Block → α → Block} (h : ∀ (b : Block) (a : α), b.Subsides (f b a)) (l : List α)
    (b : Block) : b.Subsides (l.foldl f b) := by
  induction l generalizing b with
  | nil => exact refl b
  | cons a l ih => exact (h b a).trans (ih _)

end Block.Subsides

/-! ### One part changed -/

theorem report_subsides (body : ReportBody) (b : Block) : b.Subsides (b.report body) := by
  obtain ⟨_, buffer, _, _, pointer, next⟩ := offerReport_frame body b.msg
  refine { Block.Subsides.refl b with
    kept := report_kept body b
    buffer := buffer
    pointer := pointer
    reports := offerReport_length body
    nextReport := fun _ => ?_ }
  simp only [Block.report, Block.setMsg_msg, next]
  omega

theorem setMaint_subsides (q : Sequencer) (b : Block) : b.Subsides (b.setMaint q) :=
  { Block.Subsides.refl b with kept := setMaint_kept q b }

/-- A chain unit with the same boards and census, its states still 128 each. -/
theorem setChain_subsides {b : Block} {x : ChainUnit} (census : x.census = b.chain.census)
    (boards : x.boards = b.chain.boards) (outputs : b.chain.outputs.length = 128 → x.outputs.length = 128)
    (feedback : b.chain.feedback.length = 128 → x.feedback.length = 128) : b.Subsides (b.setChain x) :=
  { Block.Subsides.refl b with
    kept := setChain_kept x b, census := census, boards := boards, outputs := outputs, feedback := feedback }

/-- A table from which records may have gone. -/
theorem setTrack_subsides {b : Block} {x : TrackUnit}
    (h : (x.table.map ParticleRecord.key).Sublist (b.track.table.map ParticleRecord.key)) :
    b.Subsides (b.setTrack x) :=
  { Block.Subsides.refl b with kept := ⟨rfl, rfl, rfl, rfl, rfl, rfl, rfl⟩, table := h }

/-- A list from which entries may have gone. -/
theorem setList_subsides {b : Block} {st : StationId} {l : List Entry} (h : l.length ≤ (b.lists.get st).length) :
    b.Subsides (b.setList st l) := by
  refine { Block.Subsides.refl b with kept := setList_kept st l b, lists := fun other => ?_, left := fun _ => .inl }
  simp only [Block.setList, Block.setLists_lists, Four.get_set]
  split
  next same => exact same ▸ h
  next => exact Nat.le_refl _

/-- What holds of a station put in place and of the others as they were holds of every station. -/
theorem forall_setStation {b : Block} {st : StationId} {x : Station} {p : StationId → Station → Prop} (here : p st x)
    (others : ∀ i, i ≠ st → p i (b.stations.get i)) (i : StationId) : p i ((b.setStation st x).stations.get i) := by
  simp only [Block.setStation, Block.setStations_stations, Four.get_set]
  split
  next same => exact same ▸ here
  next other => exact others i other

/-- A station in its state with its enable line, its channels still as many. -/
theorem setStation_subsides {b : Block} {st : StationId} {x : Station} (state : x.state = (b.station st).state)
    (enable : x.enable = (b.station st).enable) (channels : x.channels.length = (b.station st).channels.length) :
    b.Subsides (b.setStation st x) :=
  { Block.Subsides.refl b with
    kept := setStation_kept st x b
    channels := forall_setStation (p := fun i y => y.channels.length = (b.stations.get i).channels.length) channels
      fun _ _ => rfl
    enable := forall_setStation (p := fun i y => (b.stations.get i).EnableAgrees → y.EnableAgrees)
      (fun agrees => by rwa [Station.EnableAgrees, state, enable]) fun _ _ => id
    disarmed := forall_setStation (p := fun i y => (b.stations.get i).state = .disarmed → y.state = .disarmed)
      (fun disarmed => by rwa [state]) fun _ _ => id
    left := forall_setStation
      (p := fun i y => y.state ≠ .armed → (b.stations.get i).state ≠ .armed ∨ b.lists.get i = [])
      (fun notArmed => .inl (by rwa [state] at notArmed)) fun _ _ => .inl }

/-- Working settings with the same S, sizes, patterns and partition. -/
theorem setSettings_subsides {b : Block} {x : Settings} (sliceLength : x.sliceLength = b.settings.sliceLength)
    (routes : x.routes.length = b.settings.routes.length) (patterns : x.patterns = b.settings.patterns)
    (partition : x.partition = b.settings.partition) : b.Subsides (b.setSettings x) :=
  { Block.Subsides.refl b with
    kept := ⟨rfl, rfl, rfl, rfl, rfl, rfl, rfl⟩
    sliceLength := sliceLength, routes := routes, patterns := patterns, partition := partition }

theorem setHolds_subsides (st : StationId) (b : Block) : b.Subsides (setHolds st b) :=
  setSettings_subsides rfl (List.length_map _) rfl rfl

theorem updateChannel_subsides (st : StationId) (ch : Nat) (f : Channel → Channel) (b : Block) :
    b.Subsides (updateChannel st ch f b) := setStation_subsides rfl rfl (modifyAt_length f ch _)

/-! ### Records -/

@[simp] theorem updateSlot_key (st : StationId) (f : Slot → Slot) (r : ParticleRecord) :
    (r.updateSlot st f).key = r.key := rfl

theorem updateRecord_keys {f : ParticleRecord → ParticleRecord} (h : ∀ r, (f r).key = r.key) (tag : Nat)
    (t : List ParticleRecord) : (updateRecord tag f t).map ParticleRecord.key = t.map ParticleRecord.key :=
  updateRecord_map _ h tag t

theorem updateSlot_keys (st : StationId) (f : Slot → Slot) (tag : Nat) (t : List ParticleRecord) :
    (updateSlot tag st f t).map ParticleRecord.key = t.map ParticleRecord.key :=
  updateRecord_keys (updateSlot_key st f) tag t

theorem foldl_keys {α : Type} {f : List ParticleRecord → α → List ParticleRecord}
    (h : ∀ t a, (f t a).map ParticleRecord.key = t.map ParticleRecord.key) (l : List α) (t : List ParticleRecord) :
    (l.foldl f t).map ParticleRecord.key = t.map ParticleRecord.key := by
  induction l generalizing t with
  | nil => rfl
  | cons a l ih => exact (ih _).trans (h t a)

theorem setTable_subsides {b : Block} {t : List ParticleRecord}
    (h : t.map ParticleRecord.key = b.track.table.map ParticleRecord.key) : b.Subsides (b.setTable t) :=
  setTrack_subsides (h ▸ List.Sublist.refl _)

theorem reportRetired_subsides (l : List ParticleRecord) (b : Block) :
    b.Subsides (b.setMsg (l.foldl reportRetired b.msg)) := by
  induction l generalizing b with
  | nil => exact .refl b
  | cons r l ih =>
    have one : b.Subsides (b.setMsg (reportRetired b.msg r)) := by
      unfold reportRetired
      split
      · exact report_subsides r.resultBody b
      · exact .refl b
    exact one.trans (ih _)

theorem retireFinished_subsides (b : Block) : b.Subsides (retireFinished b) := by
  have gone : b.Subsides (b.setTrack (retireFinished b).track) :=
    setTrack_subsides ((retireFinished_sublist b).map _)
  exact gone.trans (reportRetired_subsides _ _)

theorem endEntry_subsides (st : StationId) (completed : Bool) (mark : SlotFlags → SlotFlags) (b : Block) (e : Entry) :
    b.Subsides (endEntry st completed mark b e) := by
  refine (setList_subsides (List.length_filter_le _ _)).trans (setTable_subsides (foldl_keys (fun t tag => ?_) e.tags _))
  exact updateRecord_keys (fun r => updateSlot_key st _ r) tag t

/-! ### A station leaves ARMED, and the stop of the line -/

theorem endPurge_subsides (ending : DoneResult) (p : Purge) (b : Block) : b.Subsides (endPurge ending p b) :=
  (setMaint_subsides .idle b).trans (report_subsides _ _)

theorem endCalibration_subsides (ending : DoneResult) (latency : Nat) (c : Calibration) (b : Block) :
    b.Subsides (endCalibration ending latency c b) :=
  (setMaint_subsides .idle b).trans (report_subsides _ _)

theorem abandonMaintenance_subsides (st : StationId) (b : Block) : b.Subsides (abandonMaintenance st b) := by
  unfold abandonMaintenance
  split
  · split
    · exact endPurge_subsides _ _ b
    · exact .refl b
  · split
    · exact endPurge_subsides _ _ b
    · exact .refl b
  · split
    · exact endCalibration_subsides _ _ _ b
    · exact .refl b
  · exact .refl b

theorem abandonMaintenance_stations (st : StationId) (b : Block) : (abandonMaintenance st b).stations = b.stations := by
  obtain ⟨q, m, e⟩ := abandonMaintenance_eq st b
  rw [e]
  rfl

theorem withdrawStation_subsides (st : StationId) (b : Block) : b.Subsides (withdrawStation st b) := by
  refine (setList_subsides (Nat.zero_le _)).trans (setTable_subsides ?_)
  rw [List.map_map]
  exact List.map_congr_left fun r _ => updateSlot_key st _ r

/-- A station goes to a state in which it is not enabled, its list being empty or not its concern. -/
theorem leaveTo_subsides {b : Block} {st : StationId} {x : Station} (enable : x.enable = false)
    (state : x.state = .disarmed ∨ x.state = .faulted) (disarmed : (b.station st).state = .disarmed → x.state = .disarmed)
    (channels : x.channels.length = (b.station st).channels.length)
    (left : (b.station st).state ≠ .armed ∨ b.lists.get st = []) : b.Subsides (b.setStation st x) := by
  refine { Block.Subsides.refl b with
    kept := setStation_kept st x b
    channels := forall_setStation (p := fun i y => y.channels.length = (b.stations.get i).channels.length) channels
      fun _ _ => rfl
    enable := forall_setStation (p := fun i y => (b.stations.get i).EnableAgrees → y.EnableAgrees) (fun _ => ?_)
      fun _ _ => id
    disarmed := forall_setStation (p := fun i y => (b.stations.get i).state = .disarmed → y.state = .disarmed)
      disarmed fun _ _ => id
    left := forall_setStation
      (p := fun i y => y.state ≠ .armed → (b.stations.get i).state ≠ .armed ∨ b.lists.get i = []) (fun _ => left)
      fun _ _ => .inl }
  rcases state with e | e <;> simp [Station.EnableAgrees, enable, e]

theorem becomeDisarmed_subsides {st : StationId} (cause : StationCause) {b : Block}
    (h : (b.station st).state ≠ .armed) : b.Subsides (becomeDisarmed st cause b) := by
  have moved : b.Subsides (b.setStation st
      { b.station st with state := .disarmed, settle := none, enable := false }) :=
    leaveTo_subsides rfl (.inl rfl) (fun _ => rfl) rfl (.inl h)
  exact moved.trans (report_subsides _ _)

/-- A list that is empty stays empty. -/
theorem Block.Subsides.list_nil {b c : Block} (h : b.Subsides c) {st : StationId} (empty : b.lists.get st = []) :
    c.lists.get st = [] := by
  have := h.lists st
  rw [empty] at this
  exact List.length_eq_zero_iff.mp (Nat.le_zero.mp this)

theorem leaveArmed_subsides {st : StationId} {new : StationState} (cause : StationCause) {b : Block}
    (target : new = .disarmed ∨ new = .faulted) (armed : (b.station st).state = .armed) :
    b.Subsides (leaveArmed st new cause b) := by
  have retired : (withdrawStation st b).Subsides
      (if new = .faulted then withdrawStation st b else retireFinished (withdrawStation st b)) := by
    split
    · exact .refl _
    · exact retireFinished_subsides _
  have held := (retired.trans (setHolds_subsides st _)).trans (abandonMaintenance_subsides st _)
  have before := (withdrawStation_subsides st b).trans held
  have stations : (abandonMaintenance st (setHolds st
      (if new = .faulted then withdrawStation st b else retireFinished (withdrawStation st b)))).stations = b.stations := by
    rw [abandonMaintenance_stations]
    by_cases faulted : new = .faulted
    · rw [if_pos faulted]
      rfl
    · rw [if_neg faulted]
      rfl
  unfold leaveArmed
  dsimp only
  generalize abandonMaintenance st (setHolds st _) = c at held before stations
  have empty : c.lists.get st = [] := held.list_nil (by simp [withdrawStation, Block.setTable, Block.setList])
  have moved : c.Subsides (c.setStation st ((c.station st).left new)) :=
    leaveTo_subsides rfl target (fun disarmed => ?_) (List.length_map _) (.inr empty)
  · exact before.trans (moved.trans (report_subsides _ _))
  · simp only [Block.station, stations] at disarmed armed
    simp [armed] at disarmed

theorem disarmStation_subsides (cause : StationCause) (b : Block) (st : StationId) :
    b.Subsides (disarmStation cause b st) := by
  unfold disarmStation
  split
  next armed => exact leaveArmed_subsides cause (.inl rfl) armed
  next arming => exact becomeDisarmed_subsides cause (by simp [arming])
  next faulted => exact becomeDisarmed_subsides cause (by simp [faulted])
  next => exact .refl b

theorem flush_subsides (b : Block) : b.Subsides (flush b) := by
  have emptied : b.Subsides (b.setLists (Four.all4 [])) :=
    { Block.Subsides.refl b with
      kept := ⟨rfl, rfl, rfl, rfl, rfl, rfl, rfl⟩
      lists := by simp
      left := fun _ => .inl }
  refine (emptied.trans (setTable_subsides ?_)).trans (retireFinished_subsides _)
  rw [List.map_map]
  exact List.map_congr_left fun r _ => rfl

/-- HALT and the line faults first take every station to DISARMED and flush the table. -/
theorem stopStations_subsides (cause : StationCause) (b : Block) : b.Subsides (stopStations cause b) :=
  (Block.Subsides.foldl (disarmStation_subsides cause) allStations b).trans (flush_subsides _)

/-! ### Channel faults, and station control's steps of a refresh

They change no station's state, so that a station that faults at their end is still ARMED then. -/

/-- Records and entries may go, and no station's state changes. -/
structure Block.Attends (b c : Block) : Prop where
  subsides : b.Subsides c
  states : ∀ st, (c.station st).state = (b.station st).state

namespace Block.Attends

theorem refl (b : Block) : b.Attends b := ⟨.refl b, fun _ => rfl⟩

theorem trans {a b c : Block} (h : a.Attends b) (k : b.Attends c) : a.Attends c :=
  ⟨h.subsides.trans k.subsides, fun st => (k.states st).trans (h.states st)⟩

theorem foldl {α : Type} {f : Block → α → Block} (h : ∀ (b : Block) (a : α), b.Attends (f b a)) (l : List α)
    (b : Block) : b.Attends (l.foldl f b) := by
  induction l generalizing b with
  | nil => exact refl b
  | cons a l ih => exact (h b a).trans (ih _)

/-- A change that is no station's concern. -/
theorem of_stations {b c : Block} (h : b.Subsides c) (same : c.stations = b.stations) : b.Attends c :=
  ⟨h, fun st => by rw [Block.station, Block.station, same]⟩

end Block.Attends

theorem report_attends (body : ReportBody) (b : Block) : b.Attends (b.report body) :=
  .of_stations (report_subsides body b) rfl

theorem setStation_attends {b : Block} {st : StationId} {x : Station} (state : x.state = (b.station st).state)
    (enable : x.enable = (b.station st).enable) (channels : x.channels.length = (b.station st).channels.length) :
    b.Attends (b.setStation st x) :=
  ⟨setStation_subsides state enable channels,
    forall_setStation (p := fun i y => y.state = (b.stations.get i).state) state fun _ _ => rfl⟩

theorem updateChannel_attends (st : StationId) (ch : Nat) (f : Channel → Channel) (b : Block) :
    b.Attends (updateChannel st ch f b) := setStation_attends rfl rfl (modifyAt_length f ch _)

theorem endEntry_attends (st : StationId) (completed : Bool) (mark : SlotFlags → SlotFlags) (b : Block) (e : Entry) :
    b.Attends (endEntry st completed mark b e) := .of_stations (endEntry_subsides st completed mark b e) rfl

theorem maintenanceChannelFault_attends (st : StationId) (ch : Nat) (b : Block) :
    b.Attends (maintenanceChannelFault st ch b) := by
  unfold maintenanceChannelFault
  split
  · split
    · exact .of_stations (setMaint_subsides _ b) rfl
    · exact .refl b
  · split
    · exact .of_stations (endCalibration_subsides _ _ _ b) rfl
    · exact .refl b
  · exact .refl b
  · exact .refl b

theorem tallyFault_attends (st : StationId) (cause : ChannelFault) (b : Block) :
    b.Attends (b.setStation st ((b.station st).tallyFault cause)) := by
  cases cause <;> exact setStation_attends rfl rfl rfl

theorem channelFault_attends (st : StationId) (ch : Nat) (cause : ChannelFault) (b : Block) :
    b.Attends (channelFault st ch cause b) :=
  ((((updateChannel_attends st ch _ b).trans (Block.Attends.foldl (endEntry_attends st false _) _ _)).trans
    (tallyFault_attends st cause _)).trans (maintenanceChannelFault_attends st ch _)).trans (report_attends _ _)

theorem confirmCheck_attends (st : StationId) (b : Block) (ch : Nat) : b.Attends (confirmCheck st b ch) := by
  unfold confirmCheck
  split
  · exact .refl b
  · split
    · exact channelFault_attends st ch _ b
    · split
      · have confirmed : b.Attends (b.setList st ((b.lists.get st).map (Entry.confirm ch))) :=
          .of_stations (setList_subsides (List.length_map _).le) rfl
        exact confirmed.trans (updateChannel_attends st ch _ _)
      · exact .refl b

theorem cutEntry_attends (st : StationId) (b : Block) (e : Entry) : b.Attends (cutEntry st b e) :=
  (endEntry_attends st true _ b e).trans (setStation_attends rfl rfl rfl)

theorem timeLimit_attends (st : StationId) (b : Block) : b.Attends (timeLimit st b) :=
  Block.Attends.foldl (cutEntry_attends st) _ b

theorem stuckCheck_attends (st : StationId) (b : Block) (ch : Nat) : b.Attends (stuckCheck st b ch) := by
  unfold stuckCheck
  split
  · split
    · split
      · exact updateChannel_attends st ch _ b
      · exact channelFault_attends st ch _ b
    · exact updateChannel_attends st ch _ b
  · exact .refl b

theorem stationRefresh_subsides (b : Block) (st : StationId) : b.Subsides (stationRefresh b st) := by
  unfold stationRefresh
  split
  next armed =>
    have steps := ((Block.Attends.foldl (confirmCheck_attends st) (channelNumbers b st) b).trans
      (timeLimit_attends st _)).trans (Block.Attends.foldl (stuckCheck_attends st) (channelNumbers b st) _)
    dsimp only
    unfold stationFault
    split
    · exact steps.subsides.trans (leaveArmed_subsides _ (.inr rfl) ((steps.states st).trans armed))
    · exact steps.subsides
  next => exact .refl b

/-! ### What a refresh sends, and the calibration -/

theorem beginShots_subsides (b : Block) : b.Subsides (beginShots b) := by
  unfold beginShots
  split
  · split
    · exact (setMaint_subsides _ b).trans (updateChannel_subsides _ _ _ _)
    · exact .refl b
    · exact .refl b
  · split
    · exact (setMaint_subsides _ b).trans (updateChannel_subsides _ _ _ _)
    · exact .refl b
  · exact .refl b
  · exact .refl b

theorem markSent_subsides (b : Block) (st : StationId) : b.Subsides (markSent b st) := by
  unfold markSent
  split
  · exact Block.Subsides.foldl (fun acc ch => updateChannel_subsides st ch _ acc) _ b
  · exact .refl b

theorem outputStates_length (b : Block) : (outputStates b).length = 128 := by simp [outputStates]

theorem sendRefresh_subsides (b : Block) : b.Subsides (sendRefresh b) := by
  have sent : (beginShots b).Subsides ((beginShots b).setChain
      { (beginShots b).chain with
        outputs := outputStates (beginShots b), refreshStart := some (beginShots b).clock }) :=
    setChain_subsides rfl rfl (fun _ => outputStates_length _) id
  exact ((beginShots_subsides b).trans sent).trans (Block.Subsides.foldl markSent_subsides allStations _)

theorem finishCalibration_subsides (c : Calibration) (delays : List Nat) (b : Block) :
    b.Subsides (finishCalibration c delays b) := by
  unfold finishCalibration
  dsimp only
  split
  · have written : b.Subsides (setLatency c.station (ceilDiv delays.sum 8) b) :=
      setSettings_subsides rfl rfl rfl rfl
    exact written.trans (endCalibration_subsides _ _ _ _)
  · exact endCalibration_subsides _ _ _ b

theorem calibrationStep_subsides (before : Sequencer) (b : Block) : b.Subsides (calibrationStep before b) := by
  unfold calibrationStep
  split
  · split
    · exact .refl b
    · split
      · dsimp only
        split
        · exact setMaint_subsides _ b
        · exact finishCalibration_subsides _ _ b
      · exact .refl b
  · exact .refl b

/-! ### The feedback of a sound refresh -/

/-- A marker that came back whole came behind the states of all boards. -/
theorem markerWhole_length {boards : Nat} {ret : List Bool} (h : markerWhole boards ret = true) :
    32 * boards ≤ ret.length := by
  have marker := congrArg List.length (eq_of_beq h)
  simp only [List.length_take, List.length_drop, chainMarker, List.length_append, List.length_replicate] at marker
  omega

theorem feedbackOf_length {boards : Nat} {ret : List Bool} (few : boards ≤ 4) (h : markerWhole boards ret = true) :
    (feedbackOf boards ret).length = 128 := by
  have := markerWhole_length h
  simp only [feedbackOf, List.length_append, List.length_take, List.length_replicate]
  omega

/-! ### The ends and starts of a crossing -/

theorem endAtCrossing_subsides (st : StationId) (c : Nat) (b : Block) : b.Subsides (endAtCrossing st c b) :=
  Block.Subsides.foldl (endEntry_subsides st true id) _ b

theorem followStart_subsides (st : StationId) (b : Block) (e : Entry) : b.Subsides (followStart st b e) := by
  have followed : b.Subsides (b.setTable (e.tags.foldl (fun t tag => updateSlot tag st Slot.started t) b.track.table)) :=
    setTable_subsides (foldl_keys (fun t tag => updateSlot_keys st _ tag t) _ _)
  unfold followStart
  dsimp only
  split
  · exact followed.trans (updateChannel_subsides st _ _ _)
  · exact followed

theorem startAtCrossing_subsides (st : StationId) (c : Nat) (b : Block) : b.Subsides (startAtCrossing st c b) :=
  (setList_subsides (List.length_map _).le).trans (Block.Subsides.foldl (followStart_subsides st) _ _)

end Sys2Proof.Machine
end

section
/-! PROOFS. What every event does around its own effect, for any predicate of the blocks: an invariant that no sending and
no serving breaks is kept by an event where its effect keeps it, and by a request where its own checks keep it. -/

namespace Sys2Proof.Machine

/-- A predicate that the transmitter, the serving of a frame and the placing of a reply keep. -/
structure KeptByLink (P : Block → Prop) : Prop where
  sending : ∀ b now, P b → P (b.setMsg (startSending now b.msg))
  replying : ∀ b kind r, P b → P (b.setMsg (placeReply kind r b.msg))
  serving : ∀ b kind f rest, b.msg.buffer = f :: rest → P b →
    P (b.setMsg { b.msg with buffer := rest, inHand := some kind })

variable {P : Block → Prop}

theorem KeptByLink.eventIf {due : Bool} {s t : State} {f : Block → Block} (h : KeptByLink P) (before : P s.toBlock)
    (own : due = true → P (f s.toBlock)) (run : eventIf due s f = .next t) : P t.toBlock := by
  cases due with
  | false =>
    cases run
    exact before
  | true =>
    cases run
    exact h.sending _ _ (own rfl)

theorem KeptByLink.event {s t : State} {f : Block → Block} (h : KeptByLink P)
    (own : P (f s.toBlock)) (run : Machine.event s f = .next t) : P t.toBlock := by
  cases run
  exact h.sending _ _ own

/-- A request's own checks see a controller that runs. -/
def KeptByJudge (P : Block → Prop) (judge : List Byte → Block → Block × Option Reply) : Prop :=
  ∀ p b, b.resetting = none → P b → P (judge p b).1

theorem KeptByLink.serve {mine : Frame → Bool} {judge : List Byte → Block → Block × Option Reply} {s t : State}
    (h : KeptByLink P) (before : P s.toBlock) (own : KeptByJudge P judge) (run : serve mine judge s = .next t) :
    P t.toBlock := by
  refine h.eventIf before (fun due => ?_) run
  have running : s.resetting = none := by
    simp only [servable, Block.running, Bool.and_eq_true] at due
    simpa using due.1.1
  unfold serveHead
  split
  · exact before
  next f rest head =>
    have judged := own f.payload _ (by exact running) (h.serving s.toBlock f.kind f rest head before)
    dsimp only
    split
    · exact judged
    · exact h.replying _ _ _ judged

/-- Own checks past STARTUP and behind the length and the lock. -/
theorem keptByJudge_judged {lengthOk : Block → Nat → Bool} {edit : List Byte → Bool}
    {own : List Byte → Block → Block × Option Reply}
    (h : ∀ p b, b.resetting = none → b.line.state ≠ .startup → P b → P (own p b).1) :
    KeptByJudge P (judged lengthOk edit own) := by
  intro p b running before
  unfold judged
  split
  · exact before
  next past =>
    split
    · exact before
    · split
      · exact before
      · exact h p b running past before

/-- Own checks that take a station's number first. -/
theorem forStation_keeps {own : StationId → List Byte → Block → Block × Option Reply} {p : List Byte} {b : Block}
    (before : P b) (h : ∀ st, P (own st p b).1) : P (forStation own p b).1 := by
  unfold forStation
  split
  · exact before
  · exact h _

/-- Own checks that take a record's tag first. -/
theorem forRecord_keeps {own : ParticleRecord → Block → Block × Option Reply} {p : List Byte} {b : Block}
    (before : P b) (h : ∀ r, findRecord (field p 0 2) b.track.table = some r → P (own r b).1) :
    P (forRecord own p b).1 := by
  unfold forRecord
  split
  · exact before
  next r found => exact h r found

theorem lineOrder_keeps {code : Nat} {act : Block → Block × Option Reply} {p : List Byte} {b : Block}
    (before : P b) (h : P (act b).1) : P (lineOrder code act p b).1 := by
  unfold lineOrder
  split
  · exact h
  · exact before

theorem purgeOrder_keeps {code : Nat} {act : Block → Block × Option Reply} {p : List Byte} {b : Block}
    (before : P b) (h : P (act b).1) : P (purgeOrder code act p b).1 := by
  unfold purgeOrder
  split
  · exact h
  · exact before

end Sys2Proof.Machine
end

section
/-! PROOFS. Every step keeps the capacities, sizes and ranges of the blocks: one lemma per operation, then the commands. -/

namespace Sys2Proof.Machine

/-! ### One part changed -/

namespace Block.Shaped

variable {b c : Block}

theorem of_subsides (h : b.Shaped) (k : b.Subsides c) : c.Shaped where
  backlash := by
    rw [k.kept.pos]
    exact h.backlash
  intakeQueue := by
    rw [k.kept.intake]
    exact h.intakeQueue
  receiveBuffer := by
    rw [k.buffer]
    exact h.receiveBuffer
  reportQueue := k.reports h.reportQueue
  reportNumber := k.nextReport h.reportNumber
  ranks := by
    rw [k.kept.ranks]
    exact h.ranks
  boards := by
    rw [k.boards]
    exact h.boards
  outputs := k.outputs h.outputs
  feedback := k.feedback h.feedback
  working := by
    obtain ⟨sliceLength, routes, patterns⟩ := h.working
    exact ⟨by rwa [k.sliceLength], by rwa [k.routes], by rwa [k.patterns, k.partition]⟩
  image := by
    rw [k.kept.store]
    exact h.image
  copy := by
    rw [k.kept.store]
    exact h.copy
  channels st := (k.channels st).trans (h.channels st)
  enable st := k.enable st (h.enable st)
  faultCause := by
    rw [k.line]
    exact h.faultCause

theorem setMsg (h : b.Shaped) {m : MessageUnit} (buffer : m.buffer.length ≤ 4) (reports : m.reports.length ≤ 32)
    (next : m.nextReport < 65536) : (b.setMsg m).Shaped :=
  { h with receiveBuffer := buffer, reportQueue := reports, reportNumber := next }

theorem setIntake (h : b.Shaped) {u : IntakeUnit} (queue : u.queue.length ≤ 64) : (b.setIntake u).Shaped :=
  { h with intakeQueue := queue }

theorem setPos (h : b.Shaped) {p : PositionUnit} (backlash : p.n ≤ p.x) : (b.setPos p).Shaped :=
  { h with backlash := backlash }

theorem setSettings (h : b.Shaped) {x : Settings} (working : x.Sized) : (b.setSettings x).Shaped :=
  { h with working := working }

theorem setStore (h : b.Shaped) {x : SettingsStore} (image : x.image.contents.Sized)
    (copy : ∀ c, x.activity = .saving c → c.Sized) : (b.setStore x).Shaped :=
  { h with image := image, copy := copy }

theorem setChain (h : b.Shaped) {x : ChainUnit} (boards : x.boards ≤ 4) (outputs : x.outputs.length = 128)
    (feedback : x.feedback.length = 128) : (b.setChain x).Shaped :=
  { h with boards := boards, outputs := outputs, feedback := feedback }

theorem setLine (h : b.Shaped) {x : LineControl} (cause : x.state = .fault ↔ x.fault ≠ .none) :
    (b.setLine x).Shaped := { h with faultCause := cause }

theorem setRanks (h : b.Shaped) {x : Four Nat} (perm : x.toList.Perm [0, 1, 2, 3]) : (b.setRanks x).Shaped :=
  { h with ranks := perm }

theorem setStation (h : b.Shaped) {st : StationId} {x : Station} (channels : x.channels.length = 64)
    (enable : x.EnableAgrees) : (b.setStation st x).Shaped :=
  { h with
    channels := forall_setStation (p := fun _ y => y.channels.length = 64) channels fun i _ => h.channels i
    enable := forall_setStation (p := fun _ y => y.EnableAgrees) enable fun i _ => h.enable i }

/-- Table, lists and sequencer have no part in the shape. -/
theorem setTable (h : b.Shaped) (t : List ParticleRecord) : (b.setTable t).Shaped := { h with }

theorem report (h : b.Shaped) (body : ReportBody) : (b.report body).Shaped := h.of_subsides (report_subsides body b)

/-- Outside FAULT no fault cause is held. -/
theorem fault_none (h : b.Shaped) (past : b.line.state ≠ .fault) : b.line.fault = .none := by
  by_contra cause
  exact past (h.faultCause.mpr cause)

end Block.Shaped

variable {b : Block}

/-! ### The message unit and the transmitter -/

theorem shaped_keptByLink : KeptByLink Block.Shaped where
  sending b now h := by
    obtain ⟨_, buffer, _, _, next⟩ := startSending_frame now b.msg
    exact h.setMsg (by rw [buffer]; exact h.receiveBuffer) (startSending_length now h.reportQueue)
      (by rw [next]; exact h.reportNumber)
  replying b kind r h := h.setMsg h.receiveBuffer h.reportQueue h.reportNumber
  serving b kind f rest head h := by
    have := h.receiveBuffer
    rw [head, List.length_cons] at this
    exact h.setMsg (by simp only; omega) h.reportQueue h.reportNumber

/-! ### Stops of the line, line changes, retirement -/

/-- A line change between states other than FAULT. -/
theorem enterLine_shaped {new : LineState} (cause : LineCause) (h : b.Shaped) (off : new ≠ .fault)
    (none : b.line.fault = .none) : (enterLine new cause b).Shaped :=
  (h.setLine (x := { b.line with state := new }) (by simp [off, none])).report _

theorem drainDone_shaped (h : b.Shaped) : (drainDone b).Shaped := by
  unfold drainDone
  split
  next done => exact enterLine_shaped _ h (by decide) (h.fault_none (by simp [done.1]))
  next => exact h

theorem lineFault_shaped (f : FaultCause) (h : b.Shaped) : (lineFault f b).Shaped := by
  unfold lineFault
  split
  next taken =>
    have cause : f ≠ .none := by
      rintro rfl
      exact absurd taken (by simp [faultTaken])
    have stopped := h.of_subsides (stopStations_subsides .fault b)
    generalize stopStations .fault b = c at stopped
    have faulted : (c.setLine { c.line with state := .fault, fault := f }).Shaped :=
      stopped.setLine (by simp [cause])
    exact faulted.report _
  next => exact h

theorem haltLine_shaped (h : b.Shaped) (none : b.line.fault = .none) : (haltLine b).Shaped :=
  enterLine_shaped _ (h.of_subsides (stopStations_subsides .halt b)) (by decide)
    (by rw [(stopStations_subsides .halt b).line]; exact none)

/-! ### Commits -/

theorem commitAt_stations (st : StationId) (tag : Nat) (b : Block) : (commitAt st tag b).stations = b.stations := by
  unfold commitAt
  split
  · rfl
  · split
    · rfl
    · dsimp only
      split
      · rfl
      · split
        · rfl
        · split
          · rfl
          · split
            · rfl
            · split <;> rfl

theorem Block.Shaped.of_sameButRecords {c : Block} (h : b.Shaped) (k : b.SameButRecords c)
    (stations : c.stations = b.stations) : c.Shaped := by
  obtain ⟨⟨_, _, _, _, _, pos, intake, ranks, chain, line, store⟩, _, settings, msg, _⟩ := k
  obtain ⟨h1, h2, h3, h4, h5, h6, h7, h8, h9, h10, h11, h12, h13, h14, h15⟩ := h
  constructor <;> simpa only [pos, intake, ranks, chain, line, store, settings, msg, Block.station, stations]

theorem commitAt_shaped (st : StationId) (tag : Nat) (h : b.Shaped) : (commitAt st tag b).Shaped :=
  h.of_sameButRecords (commitAt_same st tag b) (commitAt_stations st tag b)

theorem commitDueSlots_shaped (tag : Nat) (h : b.Shaped) : (commitDueSlots tag b).Shaped := by
  refine Block.Shaped.of_subsides ?_ (retireFinished_subsides _)
  refine List.foldlRecOn allStations _ h fun acc k st _ => ?_
  split
  · exact (commitAt_shaped st tag k).of_subsides (retireFinished_subsides _)
  · exact k

/-! ### Refresh and crossing -/

theorem soundRefresh_shaped {before : Sequencer} {ret : List Bool} (h : b.Shaped)
    (whole : markerWhole b.chain.boards ret = true) : (soundRefresh before ret b).Shaped := by
  have stored : (b.setChain { b.chain with feedback := feedbackOf b.chain.boards ret, chainError := false }).Shaped :=
    h.setChain h.boards h.outputs (feedbackOf_length h.boards whole)
  exact drainDone_shaped (((stored.of_subsides (Block.Subsides.foldl stationRefresh_subsides allStations _)).of_subsides
    (calibrationStep_subsides before _)).of_subsides (retireFinished_subsides _))

theorem refresh_shaped (ret : List Bool) (h : b.Shaped) : (refresh ret b).Shaped := by
  have sent := h.of_subsides (sendRefresh_subsides b)
  unfold refresh
  split
  · split
    next whole => exact soundRefresh_shaped sent (by rwa [(sendRefresh_subsides b).boards])
    next => exact lineFault_shaped .chain (sent.setChain sent.boards sent.outputs sent.feedback)
  · exact h

theorem schedulerAtCrossing_shaped (c : Nat) (st : StationId) (h : b.Shaped) : (schedulerAtCrossing c b st).Shaped :=
  List.foldlRecOn _ _
    ((h.of_subsides (endAtCrossing_subsides st c b)).of_subsides (startAtCrossing_subsides st c _))
    fun _ k tag _ => commitAt_shaped st tag k

theorem crossing_shaped (c : Nat) (ret : List Bool) (h : b.Shaped) : (crossing c ret b).Shaped := by
  have sliced : (b.setPos { b.pos with slice := c }).Shaped := h.setPos h.backlash
  have scheduled := List.foldlRecOn allStations (schedulerAtCrossing c) sliced
    fun _ k st _ => schedulerAtCrossing_shaped c st k
  exact refresh_shaped ret (drainDone_shaped (scheduled.of_subsides (retireFinished_subsides _)))

/-! ### Position unit -/

theorem count_backlash (p : PositionUnit) (forward started : Bool) (limit : Nat) :
    (p.count forward started limit).n ≤ (p.count forward started limit).x := by
  simp only [PositionUnit.count]
  omega

theorem encoderChange_shaped (x y : Bool) (ret : List Bool) (h : b.Shaped) : (encoderChange x y ret b).Shaped := by
  have moved : (b.setEncoder x y).Shaped := { h with }
  unfold encoderChange
  dsimp only
  split
  · split
    · have counted (forward started : Bool) (limit : Nat) :
          ((b.setEncoder x y).setPos (b.pos.count forward started limit)).Shaped :=
        moved.setPos (count_backlash b.pos forward started limit)
      unfold countOnce
      dsimp only
      split
      · refine lineFault_shaped _ ?_
        split
        · exact crossing_shaped _ _ (counted _ _ _)
        · exact counted _ _ _
      · split
        · exact crossing_shaped _ _ (counted _ _ _)
        · exact counted _ _ _
    · exact moved
  · exact moved

theorem gateExpiry_shaped (h : b.Shaped) : (gateExpiry b).Shaped := by
  unfold gateExpiry
  dsimp only
  split
  · exact lineFault_shaped _ (h.setPos h.backlash)
  · exact h.setPos h.backlash

/-! ### Intake unit -/

theorem offerRecord_queue (u : IntakeUnit) (r : DetectionRecord) (h : u.queue.length ≤ 64) :
    (offerRecord u r).queue.length ≤ 64 := by
  unfold offerRecord
  dsimp only
  split
  next free =>
    simp only [Config.intakeCapacity] at free
    simp only [List.length_append, List.length_cons, List.length_nil]
    omega
  next => exact h

theorem detectionInFrame_queue (now : Nat) (bytes : List Byte) {u : IntakeUnit} (h : u.queue.length ≤ 64) :
    (detectionInFrame now bytes u).queue.length ≤ 64 := by
  unfold detectionInFrame
  dsimp only
  split
  · exact h
  · split
    · exact h
    · split
      · exact List.foldlRecOn (motive := fun v : IntakeUnit => v.queue.length ≤ 64) _ _ h
          fun v k r _ => offerRecord_queue v r k
      · exact h

theorem examineDetection_queue (now : Nat) (v : Byte) {u : IntakeUnit} (h : u.queue.length ≤ 64) :
    (examineDetection now v u).queue.length ≤ 64 := by
  have discarded : (if u.receiver.late Config.detectionGap now then discardDetection u else u).queue.length ≤ 64 := by
    split <;> exact h
  unfold examineDetection
  dsimp only
  split
  · split <;> exact discarded
  · exact detectionInFrame_queue _ _ discarded

theorem createSlots_perm {e : RouteEntry} {position : Nat} (h : b.ranks.toList.Perm [0, 1, 2, 3]) :
    (createSlots b e position).2.toList.Perm [0, 1, 2, 3] := by
  rw [createSlots_ranks]
  split
  · cases chooseStation b e with
    | none => exact h
    | some st => exact rotateRanks_perm h st
  · exact h

theorem takeOne_shaped (h : b.Shaped) : (takeOne b).Shaped := by
  unfold takeOne
  split
  · exact h
  next r rest queue =>
    have shorter := h.intakeQueue
    rw [queue, List.length_cons] at shorter
    have taken : (b.setIntake (b.intake.takeHead rest b.clock (dispositionOf b r))).Shaped :=
      h.setIntake (by simp only [IntakeUnit.takeHead]; omega)
    dsimp only
    split
    · exact commitDueSlots_shaped _ ((taken.setRanks (createSlots_perm taken.ranks)).setTable _)
    · exact taken

/-! ### Start-up, census, settle timers -/

theorem Settings.Sized.holdsOff {x : Settings} (h : x.Sized) : x.holdsOff.Sized :=
  ⟨h.sliceLength, (List.length_map _).trans h.routes, h.patterns⟩

theorem factory_sized : Settings.factory.Sized :=
  ⟨by decide, List.length_replicate, List.length_replicate⟩

theorem finishLoad_shaped (h : b.Shaped) : (finishLoad b).Shaped := by
  have loaded : (if b.store.image.sound then b.store.image.contents.holdsOff else Settings.factory).Sized := by
    split
    · exact h.image.holdsOff
    · exact factory_sized
  have read := (h.setSettings loaded).setLine (x := { b.line with settingsLost := !b.store.image.sound }) h.faultCause
  have settled := (read.setStore (x := { b.store with
      loading := false
      lock := lockAfterReset b.line.record.cause b.store.lock
        (if b.store.image.sound then b.store.image.contents.holdsOff else Settings.factory).defaultLock
      lockCopy := lockAfterReset b.line.record.cause b.store.lock
        (if b.store.image.sound then b.store.image.contents.holdsOff else Settings.factory).defaultLock })
    h.image h.copy)
  exact settled.setChain h.boards h.outputs h.feedback

theorem censusNumber_le {trials : List (Option Nat)} {n : Nat} (h : censusNumber trials = some n) :
    n % 32 = 0 ∧ n ≤ 128 := by
  unfold censusNumber at h
  split at h
  · split at h
    next k rest found =>
      cases h
      exact ⟨found.2.2.1, found.2.2.2⟩
    next => exact absurd h (by simp)
  · exact absurd h (by simp)
  · exact absurd h (by simp)

theorem takeCensus_shaped (trials : List (Option Nat)) (h : b.Shaped) : (takeCensus trials b).Shaped := by
  refine h.setChain ?_ h.outputs h.feedback
  cases found : censusNumber trials with
  | none => simp
  | some n =>
    have := censusNumber_le found
    simp only [Option.getD_some]
    omega

theorem endStartup_shaped (h : b.Shaped) (startup : b.line.state = .startup) : (endStartup b).Shaped := by
  have awake : ((b.setPos (b.pos.afterStartup b.settings)).setIntake { b.intake with ready := true }).Shaped :=
    (h.setPos (p := b.pos.afterStartup b.settings) h.backlash).setIntake h.intakeQueue
  have entered := enterLine_shaped .start (new := stateAfterStartup b.line.halt.taken)
    (awake.report (.start b.line.record.cause b.line.settingsLost b.chain.boards b.chain.censusOk b.settings.partition))
    (by cases b.line.halt.taken <;> decide) (h.fault_none (by simp [startup]))
  exact entered.setPos entered.backlash

theorem replyClearFault_shaped (r : Reply) (h : b.Shaped) : (replyClearFault r b).Shaped :=
  shaped_keptByLink.replying b _ r h

theorem endClearFault_shaped (h : b.Shaped) (faulted : b.line.state = .fault) : (endClearFault b).Shaped := by
  have cause := h.faultCause.mp faulted
  have keeps (f : FaultCause) (held : f ≠ .none) : (b.setLine { b.line with fault := f }).Shaped :=
    h.setLine (by simp [faulted, held])
  unfold endClearFault
  dsimp only
  split
  · refine replyClearFault_shaped _ (keeps _ ?_)
    split
    · exact cause
    · decide
  · split
    · have cleared : (b.setLine { b.line with state := .standby, fault := .none }).Shaped := h.setLine (by simp)
      exact replyClearFault_shaped _ (cleared.report _)
    · exact replyClearFault_shaped _ (keeps _ (by decide))

theorem finishCensus_shaped (trials : List (Option Nat)) (h : b.Shaped) : (finishCensus trials b).Shaped := by
  have counted := takeCensus_shaped trials h
  unfold finishCensus
  dsimp only
  split
  next startup => exact endStartup_shaped counted startup
  next faulted => exact endClearFault_shaped counted faulted
  all_goals exact counted

theorem becomeArmed_shaped (st : StationId) (h : b.Shaped) (enabled : (b.station st).enable = true) :
    (becomeArmed st b).Shaped := by
  have armed : (b.setStation st { b.station st with
      state := .armed, settle := none, channels := (b.station st).channels.map Channel.quiet }).Shaped :=
    h.setStation ((List.length_map _).trans (h.channels st)) (by simp [Station.EnableAgrees, enabled])
  exact armed.report _

theorem settleExpiry_shaped {st : StationId} (h : b.Shaped) (due : settleDue st b = true) :
    (becomeArmed st b).Shaped := by
  refine becomeArmed_shaped st h ((h.enable st).mpr (.inl ?_))
  simp only [settleDue, Bool.and_eq_true, beq_iff_eq] at due
  exact due.1.2

/-! ### Plant inputs -/

theorem onInput_shaped (input : PlantInput) (f : PlantFilter → PlantFilter) (h : b.Shaped) : (onInput input f b).Shaped := by
  cases input <;> exact h.setLine h.faultCause

theorem assertHalt_shaped (h : b.Shaped) : (assertHalt b).Shaped := by
  have taken := onInput_shaped .halt PlantFilter.takeLevel h
  unfold assertHalt
  dsimp only
  split
  next acts => exact haltLine_shaped taken (h.fault_none fun fault => by simp [fault, haltActs] at acts)
  next => exact taken.setLine taken.faultCause

theorem releaseHalt_shaped (h : b.Shaped) : (releaseHalt b).Shaped := by
  have taken := onInput_shaped .halt PlantFilter.takeLevel h
  unfold releaseHalt
  dsimp only
  split
  next halt => exact enterLine_shaped _ taken (by decide) (h.fault_none (by simp [halt]))
  next => exact taken

/-! ### Control link and resets -/

/-- A message unit whose buffer is within its four frames, its reports and their numbers as they were. -/
def MessageUnit.Receives (m n : MessageUnit) : Prop :=
  n.buffer.length ≤ 4 ∧ n.reports = m.reports ∧ n.nextReport = m.nextReport

theorem controlInFrame_receives (now : Nat) (bytes : List Byte) {m : MessageUnit} (h : m.buffer.length ≤ 4) :
    m.Receives (controlInFrame now bytes m) := by
  unfold controlInFrame
  dsimp only
  split
  · exact ⟨h, rfl, rfl⟩
  · split
    · exact ⟨h, rfl, rfl⟩
    · split
      · unfold offerFrame
        split
        next free =>
          simp only [Config.bufferCapacity] at free
          refine ⟨?_, rfl, rfl⟩
          simp only [List.length_append, List.length_cons, List.length_nil]
          omega
        next => exact ⟨h, rfl, rfl⟩
      · exact ⟨h, rfl, rfl⟩

theorem examineControl_receives (now : Nat) (v : Byte) (stopBit : Bool) {m : MessageUnit} (h : m.buffer.length ≤ 4) :
    m.Receives (examineControl now v stopBit m) := by
  have late (w : MessageUnit) (k : m.Receives w) : m.Receives
      (match w.receiver with
      | .seeking => if stopBit && v == syncByte then { w with receiver := .inFrame [] now } else w
      | .inFrame bytes _ =>
        if stopBit then controlInFrame now (bytes ++ [v]) w else discardControl LinkTallies.byteErrors w) := by
    obtain ⟨buffer, reports, next⟩ := k
    split
    · split <;> exact ⟨buffer, reports, next⟩
    · split
      · obtain ⟨few, same, number⟩ := controlInFrame_receives now _ buffer
        exact ⟨few, same.trans reports, number.trans next⟩
      · exact ⟨buffer, reports, next⟩
  refine late _ ?_
  split <;> exact ⟨h, rfl, rfl⟩

theorem controlByte_shaped (now : Nat) (v : Byte) (stopBit : Bool) (h : b.Shaped) :
    (b.setMsg (examineControl now v stopBit b.msg)).Shaped := by
  obtain ⟨buffer, reports, next⟩ := examineControl_receives now v stopBit h.receiveBuffer
  exact h.setMsg buffer (by rw [reports]; exact h.reportQueue) (by rw [next]; exact h.reportNumber)

/-- A reset gives every block its values after a reset. -/
theorem beginReset_blank (cause : ResetCause) (b : Block) : (beginReset cause b).Blank where
  pos := rfl
  intake := rfl
  table := rfl
  outcomes st := Four.get_all4 zeroOutcomes st
  lists st := Four.get_all4 [] st
  ranks := rfl
  settings := (factoryDefaults_iff _).mpr rfl
  stations st := Four.get_all4 Station.afterReset st
  chain := rfl
  msg := rfl
  maint := rfl
  activity := rfl
  line := ⟨rfl, rfl, rfl, rfl⟩

/-- Blank blocks have the shape, with an image of the right sizes. -/
theorem Block.Blank.shaped (h : b.Blank) (image : b.store.image.contents.Sized) : b.Shaped where
  backlash := by simp [h.pos]
  intakeQueue := by simp [h.intake]
  receiveBuffer := by simp [h.msg]
  reportQueue := by simp [h.msg]
  reportNumber := by simp [h.msg]
  ranks := by simp [h.ranks, Four.toList]
  boards := by simp [h.chain]
  outputs := by simp [h.chain]
  feedback := by simp [h.chain]
  working := by
    rw [(factoryDefaults_iff _).mp h.settings]
    exact factory_sized
  image := image
  copy := by simp [h.activity]
  channels st := by simp [Block.station, h.stations]
  enable st := by simp [Block.station, h.stations]
  faultCause := by simp [h.line]

theorem beginReset_shaped (cause : ResetCause) (h : b.Shaped) : (beginReset cause b).Shaped :=
  (beginReset_blank cause b).shaped h.image

theorem finishSending_shaped (h : b.Shaped) : (finishSending b).Shaped := by
  unfold finishSending
  split
  · exact h
  · split
    · exact h.setMsg h.receiveBuffer h.reportQueue h.reportNumber
    · have ended : (b.setMsg { b.msg with sending := none, inHand := none }).Shaped :=
        h.setMsg h.receiveBuffer h.reportQueue h.reportNumber
      dsimp only
      split
      · exact beginReset_shaped _ ended
      · exact ended

theorem finishReset_shaped (h : b.Shaped) : (finishReset b).Shaped := by
  have cleared : ((b.setClock 0).setResetting none).Shaped := { h with }
  have taken := cleared.setLine (x := { b.line with
    halt := b.line.halt.takeLevel, airLow := b.line.airLow.takeLevel, key := b.line.key.takeLevel }) h.faultCause
  exact taken.setStore (x := { b.store with loading := true }) h.image h.copy

/-! ### Requests to the line -/

theorem refuse_shaped (status : Status) (h : b.Shaped) : (refuse status b).1.Shaped := h

theorem enterRun_shaped (h : b.Shaped) (none : b.line.fault = .none) : (enterRun b).Shaped := by
  have entered := enterLine_shaped .lineRun h (new := .run) (by decide) none
  unfold enterRun
  dsimp only
  split
  · exact lineFault_shaped _ entered
  · exact entered

theorem orderRun_shaped (h : b.Shaped) : (orderRun b).1.Shaped := by
  unfold orderRun
  split
  next standby =>
    split
    · exact h
    · exact enterRun_shaped h (h.fault_none (by simp [standby]))
  next draining => exact enterRun_shaped h (h.fault_none (by simp [draining]))
  all_goals exact h

theorem orderDrain_shaped (h : b.Shaped) : (orderDrain b).1.Shaped := by
  unfold orderDrain
  split
  next run => exact enterLine_shaped _ h (by split <;> decide) (h.fault_none (by simp [run]))
  all_goals exact h

theorem flushed_shaped (h : b.Shaped) (past : b.line.state ≠ .fault) :
    (enterLine .standby .flush (flush b)).Shaped :=
  enterLine_shaped _ (h.of_subsides (flush_subsides b)) (by decide)
    (by rw [(flush_subsides b).line]; exact h.fault_none past)

theorem orderFlush_shaped (h : b.Shaped) : (orderFlush b).1.Shaped := by
  unfold orderFlush
  split
  next run => exact flushed_shaped h (by simp [run])
  next draining => exact flushed_shaped h (by simp [draining])
  all_goals exact h

theorem ownLineSet_shaped (p : List Byte) (h : b.Shaped) : (ownLineSet p b).1.Shaped := by
  unfold ownLineSet
  split
  · exact h
  · split
    next inRange =>
      simp only [lineSettingsOk, Bool.and_eq_true, decide_eq_true_eq] at inRange
      obtain ⟨⟨⟨low, high⟩, _⟩, _⟩ := inRange
      have written := h.setSettings (x := { b.settings with
        sliceLength := field p 0 2, reverseLimit := field p 2 2, staleLimit := field p 4 3 })
        ⟨⟨low, high⟩, h.working.routes, h.working.patterns⟩
      exact written.setPos h.backlash
    next => exact h

theorem ownClearFault_shaped (p : List Byte) (h : b.Shaped) : (ownClearFault p b).1.Shaped := by
  unfold ownClearFault
  split
  · exact h
  · have ordered := h.setChain (x := { b.chain with census := true }) h.boards h.outputs h.feedback
    exact ordered.setLine h.faultCause

/-! ### Requests to stations -/

theorem clearChannels_shaped (st : StationId) (h : b.Shaped) : (clearChannels st b).Shaped :=
  h.setStation List.length_replicate (h.enable st)

theorem ownStationSet_shaped (st : StationId) (p : List Byte) (h : b.Shaped) : (ownStationSet st p b).1.Shaped := by
  unfold ownStationSet
  split
  · exact h
  · split
    · exact h
    next c _ =>
      split
      · exact h
      · have written := h.setSettings (x := { b.settings with stations := b.settings.stations.set st c })
          ⟨h.working.sliceLength, h.working.routes, h.working.patterns⟩
        exact clearChannels_shaped st written

theorem startArming_shaped (st : StationId) (h : b.Shaped) : (startArming st b).Shaped := by
  have arming : (b.setStation st { b.station st with
      state := .arming, enable := true, settle := some b.clock }).Shaped :=
    h.setStation (h.channels st) (by simp [Station.EnableAgrees])
  unfold startArming
  dsimp only
  split
  · exact becomeArmed_shaped st (arming.report _)
      (by simp [stationNotice, Block.report, Block.station, Block.setStation])
  · exact arming.report _

theorem ownArm_shaped (st : StationId) (p : List Byte) (h : b.Shaped) : (ownArm st p b).1.Shaped := by
  unfold ownArm
  split
  · exact h
  · split
    · exact h
    · exact h
    · exact h
    · split
      · exact h
      · split
        · exact startArming_shaped st h
        · exact h

theorem ownFloor_shaped (st : StationId) (p : List Byte) (h : b.Shaped) : (ownFloor st p b).1.Shaped := by
  unfold ownFloor
  split
  · exact h.setSettings ⟨h.working.sliceLength, h.working.routes, h.working.patterns⟩
  · exact h

theorem ownClearChannel_shaped (st : StationId) (p : List Byte) (h : b.Shaped) : (ownClearChannel st p b).1.Shaped := by
  have cleared := updateChannel_attends st (field p 1 1) Channel.cleared b
  unfold ownClearChannel clearChannel
  dsimp only
  split
  · show Block.Shaped (if _ then _ else _)
    split
    next faulted =>
      exact (h.of_subsides cleared.subsides).of_subsides
        (becomeDisarmed_subsides _ (by rw [cleared.states, faulted.1]; decide))
    next => exact h.of_subsides cleared.subsides
  · exact h

/-! ### Requests to the tables -/

theorem setPointer_shaped (q : Pointer) (h : b.Shaped) : (setPointer q b).Shaped :=
  h.setMsg h.receiveBuffer h.reportQueue h.reportNumber

theorem ownSelect_shaped (p : List Byte) (h : b.Shaped) : (ownSelect p b).1.Shaped := by
  unfold ownSelect
  split
  · split
    · exact setPointer_shaped _ h
    · exact h
  · exact h

theorem ownWrite_shaped (p : List Byte) (h : b.Shaped) : (ownWrite p b).1.Shaped := by
  have route (acc : Block × Bool) (r : RouteEntry) (k : acc.1.Shaped) : (writeRoute acc r).1.Shaped :=
    setPointer_shaped _ (k.setSettings
      ⟨k.working.sliceLength, (List.length_set ..).trans k.working.routes, k.working.patterns⟩)
  have pattern (c : Block) (x : Pattern) (k : c.Shaped) : (writePattern c x).Shaped :=
    setPointer_shaped _ (k.setSettings
      ⟨k.working.sliceLength, k.working.routes, (List.length_set ..).trans k.working.patterns⟩)
  unfold ownWrite
  split
  · unfold writeRoutes
    split
    · exact h
    · exact List.foldlRecOn (motive := fun acc : Block × Bool => acc.1.Shaped) _ _ h fun acc k r _ => route acc r k
  · unfold writePatterns
    dsimp only
    split
    · exact h
    · exact List.foldlRecOn _ _ h fun c k x _ => pattern c x k

theorem ownRead_shaped (p : List Byte) (h : b.Shaped) : (ownRead p b).1.Shaped := by
  unfold ownRead
  dsimp only
  split
  · exact setPointer_shaped _ h
  · exact h

theorem ownReleaseHolds_shaped (p : List Byte) (h : b.Shaped) : (ownReleaseHolds p b).1.Shaped :=
  h.setSettings ⟨h.working.sliceLength, (List.length_map _).trans h.working.routes, h.working.patterns⟩

theorem carryPatterns_length (k : Nat) (old : List Pattern) : (carryPatterns k old).length = k := by
  simp only [carryPatterns, List.length_append, List.length_take, List.length_replicate]
  omega

theorem ownPartition_shaped (p : List Byte) (h : b.Shaped) : (ownPartition p b).1.Shaped := by
  unfold ownPartition
  split
  · exact h
  · split
    · exact h
    · exact setPointer_shaped _ (h.setSettings
        ⟨h.working.sliceLength, h.working.routes, carryPatterns_length _ _⟩)

theorem ownTallyRead_shaped (p : List Byte) (h : b.Shaped) : (ownTallyRead p b).1.Shaped := by
  have cleared (clear : Bool) (c : Block) (k : c.Shaped) : (if clear = true then c else b).Shaped := by
    split
    · exact k
    · exact h
  unfold ownTallyRead
  split
  · exact h
  · unfold readTallies
    dsimp only
    split
    · exact cleared _ _ (h.setIntake h.intakeQueue)
    · exact cleared _ _ (h.setMsg h.receiveBuffer h.reportQueue h.reportNumber)
    · split
      next st _ =>
        have zeroed : (b.setTrack { b.track with outcomes := b.track.outcomes.set st zeroOutcomes }).Shaped := { h with }
        exact cleared _ _ (zeroed.setStation (h.channels st) (h.enable st))
      · exact h

/-! ### Requests on records -/

theorem settleRecords_shaped (h : b.Shaped) : (settleRecords b).Shaped :=
  drainDone_shaped (h.of_subsides (retireFinished_subsides b))

theorem cancelRecord_shaped (r : ParticleRecord) (h : b.Shaped) : (cancelRecord r b).1.Shaped := by
  refine settleRecords_shaped (List.foldlRecOn allStations _ h fun acc k st _ => ?_)
  unfold cancelAt
  split
  · exact k
  · dsimp only
    split
    · exact (k.of_subsides (setList_subsides (withdrawTags_length _ _ _))).setTable _
    · exact k.setTable _

theorem ownAmend_shaped (p : List Byte) (h : b.Shaped) : (ownAmend p b).1.Shaped := by
  unfold ownAmend
  split
  · refine forRecord_keeps h fun r _ => ?_
    unfold amendRecord
    split
    · exact h
    · split
      · exact settleRecords_shaped (h.setTable _)
      · exact settleRecords_shaped (commitDueSlots_shaped _ ((h.setRanks (createSlots_perm h.ranks)).setTable _))
  · exact h

/-! ### Settings store -/

theorem ownSave_shaped (p : List Byte) (h : b.Shaped) : (ownSave p b).1.Shaped :=
  h.setStore h.image fun c saving => by
    cases saving
    exact h.working.holdsOff

theorem storeDone_shaped (work : Work) (ending : DoneResult) (h : b.Shaped) : (storeDone work ending b).Shaped :=
  (h.setStore (x := { b.store with activity := .idle }) h.image (by simp)).report _

theorem finishSave_shaped (agrees : Bool) (h : b.Shaped) : (finishSave agrees b).Shaped := by
  unfold finishSave
  split
  next copy saving =>
    split
    · exact storeDone_shaped _ _ (h.setStore (x := { b.store with image := ⟨true, copy⟩ }) (h.copy copy saving) h.copy)
    · exact storeDone_shaped _ _
        (h.setStore (x := { b.store with image := { b.store.image with sound := false } }) h.image h.copy)
  · exact h
  · exact h

theorem applyImage_shaped (h : b.Shaped) : (applyImage b).Shaped := by
  have read := h.setSettings h.image.holdsOff
  have taken := read.setPos (p := b.pos.takeLimits b.store.image.contents.holdsOff.sliceLength
    b.store.image.contents.holdsOff.reverseLimit) h.backlash
  exact List.foldlRecOn allStations _ (setPointer_shaped _ taken) fun _ k st _ => clearChannels_shaped st k

theorem finishRestore_shaped (h : b.Shaped) : (finishRestore b).Shaped := by
  unfold finishRestore
  split
  · exact storeDone_shaped _ _ h
  · split
    · exact storeDone_shaped _ _ h
    · exact storeDone_shaped _ _ (applyImage_shaped h)

theorem ownRestore_shaped (p : List Byte) (h : b.Shaped) : (ownRestore p b).1.Shaped := by
  unfold ownRestore
  split
  · exact h
  · exact h.setStore h.image (by simp)

theorem setLock_shaped (m : LockMode) (h : b.Shaped) : (setLock m b).Shaped := h.setStore h.image h.copy

theorem setLockAndDefault_shaped (m : LockMode) (h : b.Shaped) : (setLockAndDefault m b).Shaped :=
  setLock_shaped m (h.setSettings ⟨h.working.sliceLength, h.working.routes, h.working.patterns⟩)

end Sys2Proof.Machine
end

section
/-! PROOFS. Every step keeps the capacities, sizes and ranges of the blocks: the maintenance runs, then every command, and
the machine right after reset. -/

namespace Sys2Proof.Machine

/-! ### Maintenance runs touch the sequencer, the reports and confirm timers alone -/

theorem takeInHand_subsides (mode : Purge → Sequencer) (p : Purge) (cycle channel : Nat) (b : Block) :
    b.Subsides (takeInHand mode p cycle channel b) := by
  unfold takeInHand
  split
  · exact setMaint_subsides _ b
  · exact endPurge_subsides _ _ b

theorem ownPurgeStart_subsides (p : List Byte) (b : Block) : b.Subsides (ownPurgeStart p b).1 := by
  unfold ownPurgeStart
  split
  · split
    · exact .refl b
    · split
      · unfold startPurge
        split
        · exact .refl b
        · split
          · exact .refl b
          · exact takeInHand_subsides _ _ _ _ b
      · exact .refl b
  · exact .refl b

theorem orderSuspend_subsides (b : Block) : b.Subsides (orderSuspend b).1 := by
  unfold orderSuspend
  split
  next p _ =>
    show b.Subsides (suspendPurge p b)
    unfold suspendPurge
    split
    · exact setMaint_subsides _ b
    · exact setMaint_subsides _ b
    · exact takeInHand_subsides _ _ _ _ b
  all_goals exact .refl b

theorem orderResume_subsides (b : Block) : b.Subsides (orderResume b).1 := by
  unfold orderResume
  split
  · exact .refl b
  · exact takeInHand_subsides _ _ _ _ b
  all_goals exact .refl b

theorem orderAbort_subsides (b : Block) : b.Subsides (orderAbort b).1 := by
  unfold orderAbort
  split
  · exact endPurge_subsides _ _ b
  · exact endPurge_subsides _ _ b
  all_goals exact .refl b

theorem endShot_subsides (b : Block) : b.Subsides (endShot b) := by
  unfold endShot
  split
  · exact .refl b
  · exact setMaint_subsides _ b

theorem endGap_subsides (b : Block) : b.Subsides (endGap b) := by
  unfold endGap
  split
  · exact .refl b
  · exact takeInHand_subsides _ _ _ _ b

theorem ownCalibrate_subsides (st : StationId) (p : List Byte) (b : Block) : b.Subsides (ownCalibrate st p b).1 := by
  unfold ownCalibrate
  dsimp only
  split
  · exact .refl b
  · split
    · exact .refl b
    · split
      · exact .refl b
      · exact setMaint_subsides _ b

/-- A PURGE order of the sequencer's, for a predicate that going records and leaving stations keep. -/
theorem purgeRequest_keeps {P : Block → Prop} {code : Nat} {act : Block → Block × Option Reply}
    (h : ∀ b c : Block, P b → b.Subsides c → P c) (own : ∀ b : Block, b.Subsides (act b).1) :
    KeptByJudge P (purgeRequest (purgeOrder code act)) :=
  keptByJudge_judged fun _ b _ _ before => purgeOrder_keeps before (h b _ before (own b))

/-! ### Every command -/

theorem exec_shaped {c : Instr} {s t : State} (h : s.toBlock.Shaped) (run : exec c s = .next t) : t.toBlock.Shaped := by
  have link := shaped_keptByLink
  have plain {n : Nat} {own : List Byte → Block → Block × Option Reply}
      (k : ∀ p b, b.Shaped → (own p b).1.Shaped) : KeptByJudge Block.Shaped (plainRequest n own) :=
    keptByJudge_judged fun p b _ _ => k p b
  have edit {n : Nat} {own : List Byte → Block → Block × Option Reply}
      (k : ∀ p b, b.Shaped → (own p b).1.Shaped) : KeptByJudge Block.Shaped (editRequest n own) :=
    keptByJudge_judged fun p b _ _ => k p b
  have lock {code : Nat} {act : Block → Block} (k : ∀ b, b.Shaped → (act b).Shaped) :
      KeptByJudge Block.Shaped (lockRequest code act) :=
    keptByJudge_judged fun p b _ _ before => by
      split
      · exact k b before
      · exact before
  have purge {b c : Block} (before : b.Shaped) (k : b.Subsides c) : c.Shaped := before.of_subsides k
  cases c with
  | encoderCount a b ret => exact link.event (encoderChange_shaped a b ret h) run
  | speedGateExpiry => exact link.eventIf h (fun _ => gateExpiry_shaped h) run
  | beacon =>
    exact link.eventIf h (fun _ => h.setPos (p := { s.pos with
      beaconStart := some s.clock, beacon := some (beaconFrame s.pos.x s.pos.v s.line.state) }) h.backlash) run
  | detectionByte v => exact link.eventIf h (fun _ => h.setIntake (examineDetection_queue _ v h.intakeQueue)) run
  | detectionGapTimeout => exact link.eventIf h (fun _ => h.setIntake (u := discardDetection s.intake) h.intakeQueue) run
  | take => exact link.eventIf h (fun _ => takeOne_shaped h) run
  | loadEnd => exact link.eventIf h (fun _ => finishLoad_shaped h) run
  | censusEnd trials => exact link.eventIf h (fun _ => finishCensus_shaped trials h) run
  | refreshTimerExpiry ret => exact link.eventIf h (fun _ => refresh_shaped ret h) run
  | settleExpiry st => exact link.eventIf h (fun due => settleExpiry_shaped h due) run
  | plantInputLevelChange input current => exact link.event (onInput_shaped input _ h) run
  | haltAssertion => exact link.eventIf h (fun _ => assertHalt_shaped h) run
  | haltRelease => exact link.eventIf h (fun _ => releaseHalt_shaped h) run
  | airLowChange => exact link.eventIf h (fun _ => onInput_shaped .airLow _ h) run
  | keyChange => exact link.eventIf h (fun _ => onInput_shaped .key _ h) run
  | controlByte v stop => exact link.eventIf h (fun _ => controlByte_shaped _ v stop h) run
  | controlGapTimeout =>
    exact link.eventIf h (fun _ => h.setMsg (m := discardControl LinkTallies.gapErrors s.msg) h.receiveBuffer
      h.reportQueue h.reportNumber) run
  | transmitComplete => exact link.eventIf h (fun _ => finishSending_shaped h) run
  | unknownKind =>
    refine link.serve h (fun p b _ k => ?_) run
    exact { k with }
  | identify =>
    refine link.serve h (fun p b _ k => ?_) run
    unfold always
    split <;> exact k
  | status =>
    refine link.serve h (fun p b _ k => ?_) run
    unfold always
    split <;> exact k
  | lineRun => exact link.serve h (plain fun p b k => lineOrder_keeps k (orderRun_shaped k)) run
  | lineStandbyDrain => exact link.serve h (plain fun p b k => lineOrder_keeps k (orderDrain_shaped k)) run
  | lineStandbyFlush => exact link.serve h (plain fun p b k => lineOrder_keeps k (orderFlush_shaped k)) run
  | lineSet => exact link.serve h (edit fun p b k => ownLineSet_shaped p k) run
  | stationSet => exact link.serve h (edit fun p b k => forStation_keeps k fun st => ownStationSet_shaped st p k) run
  | arm => exact link.serve h (plain fun p b k => forStation_keeps k fun st => ownArm_shaped st p k) run
  | disarm =>
    exact link.serve h (plain fun p b k => forStation_keeps k fun st =>
      drainDone_shaped (k.of_subsides (disarmStation_subsides .disarm b st))) run
  | floor => exact link.serve h (plain fun p b k => forStation_keeps k fun st => ownFloor_shaped st p k) run
  | clearChannel =>
    exact link.serve h (plain fun p b k => forStation_keeps k fun st => ownClearChannel_shaped st p k) run
  | select => exact link.serve h (plain fun p b k => ownSelect_shaped p k) run
  | write => exact link.serve h (keptByJudge_judged fun p b _ _ k => ownWrite_shaped p k) run
  | read => exact link.serve h (plain fun p b k => ownRead_shaped p k) run
  | releaseHolds => exact link.serve h (edit fun p b k => ownReleaseHolds_shaped p k) run
  | rankReset => exact link.serve h (plain fun p b k => k.setRanks (List.Perm.refl _)) run
  | partition => exact link.serve h (edit fun p b k => ownPartition_shaped p k) run
  | cancel => exact link.serve h (plain fun p b k => forRecord_keeps k fun r _ => cancelRecord_shaped r k) run
  | amend => exact link.serve h (plain fun p b k => ownAmend_shaped p k) run
  | trackQuery => exact link.serve h (plain fun p b k => forRecord_keeps k fun r _ => k) run
  | listRead =>
    refine link.serve h (plain fun p b k => forStation_keeps k fun st => ?_) run
    unfold ownListRead
    dsimp only
    split <;> exact k
  | tallyRead => exact link.serve h (plain fun p b k => ownTallyRead_shaped p k) run
  | save => exact link.serve h (edit fun p b k => ownSave_shaped p k) run
  | saveEnd agrees => exact link.eventIf h (fun _ => finishSave_shaped agrees h) run
  | restore => exact link.serve h (edit fun p b k => ownRestore_shaped p k) run
  | restoreEnd => exact link.eventIf h (fun _ => finishRestore_shaped h) run
  | lockOpen => exact link.serve h (lock fun b k => setLockAndDefault_shaped _ k) run
  | lockKeyed => exact link.serve h (lock fun b k => setLockAndDefault_shaped _ k) run
  | lockSealed => exact link.serve h (lock fun b k => setLock_shaped _ k) run
  | purgeStart =>
    exact link.serve h (keptByJudge_judged fun p b _ _ k => purge k (ownPurgeStart_subsides p b)) run
  | purgeSuspend => exact link.serve h (purgeRequest_keeps (fun _ _ => purge) orderSuspend_subsides) run
  | purgeResume => exact link.serve h (purgeRequest_keeps (fun _ _ => purge) orderResume_subsides) run
  | purgeAbort => exact link.serve h (purgeRequest_keeps (fun _ _ => purge) orderAbort_subsides) run
  | purgeShotEnd => exact link.eventIf h (fun _ => purge h (endShot_subsides _)) run
  | purgeGapEnd => exact link.eventIf h (fun _ => purge h (endGap_subsides _)) run
  | calibrate =>
    exact link.serve h (plain fun p b k => forStation_keeps k fun st => purge k (ownCalibrate_subsides st p b)) run
  | clearFault => exact link.serve h (plain fun p b k => ownClearFault_shaped p k) run
  | restart =>
    refine link.serve h (plain fun p b k => ?_) run
    unfold ownRestart
    split <;> exact k
  | powerOn => exact link.event (beginReset_shaped _ h) run
  | supplyDip => exact link.event (beginReset_shaped _ h) run
  | resetLineAssert =>
    refine link.eventIf h (fun _ => ?_) run
    exact { beginReset_shaped .resetLine h with }
  | resetLineRelease =>
    refine link.event (f := fun b => b.setResetLine false) ?_ run
    exact { h with }
  | resetEnd => exact link.eventIf h (fun _ => finishReset_shaped h) run
  | supplyRisesAboveResetThreshold =>
    refine link.event (f := fun b => b.setResetting (b.resetting.map (ResetProgress.supplyRises b.clock))) ?_ run
    exact { h with }

/-- Settles O3: command by command on the front of the queue; the microsecond of an empty one moves the time base alone. -/
theorem everyStepKeepsShape : Obligations.EveryStepKeepsShape := by
  unfold Obligations.EveryStepKeepsShape
  intro s t h run
  unfold step at run
  split at run
  · cases run
    exact { h with }
  next c rest _ => exact exec_shaped (s := { s with pending := rest }) h run

end Sys2Proof.Machine
end

section
/-! PROOFS. Every step keeps the laws of the table, the lists and the pointer: one lemma per operation. -/

namespace Sys2Proof.Machine

/-! ### One part changed -/

namespace Block.Tracking

variable {b c : Block}

/-- Past STARTUP neither a reset nor the load is in progress. -/
theorem past (h : b.Tracking) (started : b.line.state ≠ .startup) : b.resetting = none ∧ b.store.loading = false := by
  constructor
  · by_contra inReset
    exact started (h.inReset inReset).1
  · by_contra loading
    exact started (h.inLoad (by simpa using loading)).1

theorem of_subsides (h : b.Tracking) (k : b.Subsides c) : c.Tracking where
  inReset reset := by
    rw [k.line, k.census, k.kept.store, k.pointer]
    exact h.inReset (by rwa [k.resetting] at reset)
  inLoad loading := by
    rw [k.line, k.census, k.pointer]
    exact h.inLoad (by rwa [k.kept.store] at loading)
  startup state st := k.disarmed st (h.startup (by rwa [k.line] at state) st)
  restoring restoring := by
    rw [k.line]
    exact h.restoring (by rwa [k.kept.store] at restoring)
  emptyTable notRun notDraining := by
    rw [k.line] at notRun notDraining
    have keys := k.table
    rw [h.emptyTable notRun notDraining] at keys
    exact List.map_eq_nil_iff.mp (List.sublist_nil.mp keys)
  emptyList st notArmed := by
    rcases k.left st notArmed with before | gone
    · exact k.list_nil (h.emptyList st before)
    · exact gone
  tags := by
    have tags := k.table.map Prod.fst
    simp only [List.map_map] at tags
    exact h.tags.sublist tags
  capacity := by
    have shorter := k.table.length_le
    simp only [List.length_map] at shorter
    rw [k.partition]
    exact shorter.trans h.capacity
  order := by
    have positions := k.table.map Prod.snd
    simp only [List.map_map] at positions
    exact h.order.sublist positions
  listCapacity st := by
    rw [k.partition]
    exact (k.lists st).trans (h.listCapacity st)
  pointer := by
    rw [k.pointer, k.partition]
    exact h.pointer

/-- A message unit with its pointer as it was. -/
theorem setMsg (h : b.Tracking) {m : MessageUnit} (pointer : m.pointer = b.msg.pointer) : (b.setMsg m).Tracking where
  inReset reset := by
    simp only [setMsg_line, setMsg_chain, setMsg_store, setMsg_msg, pointer]
    exact h.inReset reset
  inLoad loading := by
    simp only [setMsg_line, setMsg_chain, setMsg_msg, pointer]
    exact h.inLoad loading
  startup := h.startup
  restoring := h.restoring
  emptyTable := h.emptyTable
  emptyList := h.emptyList
  tags := h.tags
  capacity := h.capacity
  order := h.order
  listCapacity := h.listCapacity
  pointer := by
    simp only [setMsg_msg, pointer]
    exact h.pointer

theorem setPos (h : b.Tracking) (p : PositionUnit) : (b.setPos p).Tracking := { h with }

theorem setIntake (h : b.Tracking) (u : IntakeUnit) : (b.setIntake u).Tracking := { h with }

theorem setRanks (h : b.Tracking) (x : Four Nat) : (b.setRanks x).Tracking := { h with }

/-- Line control in its state. -/
theorem setLine (h : b.Tracking) {x : LineControl} (state : x.state = b.line.state) : (b.setLine x).Tracking := by
  have same : (b.setLine x).line.state = b.line.state := state
  constructor
  case inReset =>
    rw [same]
    exact h.inReset
  case inLoad =>
    rw [same]
    exact h.inLoad
  case startup =>
    rw [same]
    exact h.startup
  case restoring =>
    rw [same]
    exact h.restoring
  case emptyTable =>
    rw [same]
    exact h.emptyTable
  all_goals first | exact h.emptyList | exact h.tags | exact h.capacity | exact h.order | exact h.listCapacity | exact h.pointer

/-- Line control in a state after STARTUP, with the table as that state has it. -/
theorem toLine (h : b.Tracking) {x : LineControl} (running : b.resetting = none) (loaded : b.store.loading = false)
    (started : x.state ≠ .startup)
    (restoring : b.store.activity = .restoring → x.state ≠ .run ∧ x.state ≠ .draining)
    (table : x.state ≠ .run → x.state ≠ .draining → b.track.table = []) : (b.setLine x).Tracking :=
  { h with
    inReset := fun reset => absurd running reset
    inLoad := fun loading => by simp [loaded] at loading
    startup := fun startup => absurd startup started
    restoring := restoring
    emptyTable := table }

/-- A chain unit with its census as it was. -/
theorem setChain (h : b.Tracking) {x : ChainUnit} (census : x.census = b.chain.census) : (b.setChain x).Tracking :=
  { h with
    inReset := by
      simp only [setChain_chain, census]
      exact h.inReset
    inLoad := by
      simp only [setChain_chain, census]
      exact h.inLoad }

/-- A census begins or ends where neither a reset nor the load is in progress. -/
theorem setCensus (h : b.Tracking) (running : b.resetting = none) (loaded : b.store.loading = false) (x : ChainUnit) :
    (b.setChain x).Tracking :=
  { h with
    inReset := fun reset => absurd running reset
    inLoad := fun loading => by simp [loaded] at loading }

/-- The settings store with a load only where there was one, and a RESTORE only outside RUN and DRAINING. -/
theorem setStore (h : b.Tracking) {x : SettingsStore} (loading : x.loading = b.store.loading)
    (restoring : x.activity = .restoring → b.line.state ≠ .run ∧ b.line.state ≠ .draining) : (b.setStore x).Tracking :=
  { h with
    inReset := by
      simp only [setStore_store, loading]
      exact h.inReset
    inLoad := by
      simp only [setStore_store, loading]
      exact h.inLoad
    restoring := restoring }

/-- Working settings under the same partition. -/
theorem setSettings (h : b.Tracking) {x : Settings} (partition : x.partition = b.settings.partition) :
    (b.setSettings x).Tracking :=
  { h with
    capacity := by
      rw [setSettings_settings, partition]
      exact h.capacity
    listCapacity := by
      rw [setSettings_settings, partition]
      exact h.listCapacity
    pointer := by
      rw [setSettings_settings, partition]
      exact h.pointer }

/-- A station that goes from one state to another past STARTUP, its list empty where it is then not ARMED. -/
theorem setStation (h : b.Tracking) {st : StationId} {x : Station} (started : b.line.state ≠ .startup)
    (list : x.state ≠ .armed → b.lists.get st = []) : (b.setStation st x).Tracking :=
  { h with
    startup := fun startup => absurd startup started
    emptyList := forall_setStation (p := fun i y => y.state ≠ .armed → b.lists.get i = []) list fun i _ => h.emptyList i }

/-- A station in its state. -/
theorem setStation_same (h : b.Tracking) {st : StationId} {x : Station} (state : x.state = (b.station st).state) :
    (b.setStation st x).Tracking :=
  { h with
    startup := fun startup => forall_setStation (p := fun _ y => y.state = .disarmed)
      (state.trans (h.startup startup st)) fun i _ => h.startup startup i
    emptyList := forall_setStation (p := fun i y => y.state ≠ .armed → b.lists.get i = [])
      (by rw [state]; exact h.emptyList st) fun i _ => h.emptyList i }

/-- A table of the same tags at the same places. -/
theorem setTable (h : b.Tracking) {t : List ParticleRecord}
    (keys : t.map ParticleRecord.key = b.track.table.map ParticleRecord.key) : (b.setTable t).Tracking :=
  h.of_subsides (setTable_subsides keys)

theorem report (h : b.Tracking) (body : ReportBody) : (b.report body).Tracking := h.of_subsides (report_subsides body b)

end Block.Tracking

variable {b : Block}

theorem tracking_keptByLink : KeptByLink Block.Tracking where
  sending b now h := by
    obtain ⟨_, _, _, pointer, _⟩ := startSending_frame now b.msg
    exact h.setMsg pointer
  replying b kind r h := h.setMsg rfl
  serving b kind f rest head h := h.setMsg rfl

/-! ### Stops of the line, line changes, retirement -/

/-- A line change past STARTUP. -/
theorem enterLine_tracking {new : LineState} (cause : LineCause) (h : b.Tracking) (past : b.line.state ≠ .startup)
    (started : new ≠ .startup) (restoring : b.store.activity = .restoring → new ≠ .run ∧ new ≠ .draining)
    (table : new ≠ .run → new ≠ .draining → b.track.table = []) : (enterLine new cause b).Tracking :=
  (h.toLine (x := { b.line with state := new }) (h.past past).1 (h.past past).2 started restoring table).report _

theorem drainDone_tracking (h : b.Tracking) : (drainDone b).Tracking := by
  unfold drainDone
  split
  next done => exact enterLine_tracking _ h (by simp [done.1]) (by decide) (fun _ => by decide) fun _ _ => done.2
  next => exact h

theorem stopStations_table (cause : StationCause) (b : Block) : (stopStations cause b).track.table = [] := by
  obtain ⟨_, table, _⟩ := flush_spec (allStations.foldl (disarmStation cause) b)
  exact table

theorem lineFault_tracking (f : FaultCause) (h : b.Tracking) : (lineFault f b).Tracking := by
  unfold lineFault
  split
  next taken =>
    have stop := stopStations_subsides .fault b
    have past : (stopStations .fault b).line.state ≠ .startup := by
      intro startup
      rw [stop.line] at startup
      rw [startup] at taken
      cases f <;> exact absurd taken (by decide)
    have stopped := h.of_subsides stop
    have table := stopStations_table .fault b
    dsimp only
    generalize stopStations .fault b = c at stopped past table
    exact enterLine_tracking _ (stopped.setLine (x := { c.line with fault := f }) rfl) past (by decide)
      (fun _ => by decide) fun _ _ => table
  next => exact h

theorem haltLine_tracking (h : b.Tracking) (past : b.line.state ≠ .startup) : (haltLine b).Tracking := by
  have stop := stopStations_subsides .halt b
  exact enterLine_tracking _ (h.of_subsides stop) (by rwa [stop.line]) (by decide) (fun _ => by decide)
    fun _ _ => stopStations_table .halt b

/-! ### Commits -/

/-- A commit keeps every tag in its place, and writes the list of its station alone, if that is ARMED, up to the list's
capacity. -/
structure CommitKeeps (st : StationId) (b c : Block) : Prop where
  keys : c.track.table.map ParticleRecord.key = b.track.table.map ParticleRecord.key
  others : ∀ i, i ≠ st → c.lists.get i = b.lists.get i
  here : c.lists.get st = b.lists.get st ∨
    (b.station st).state = .armed ∧ (c.lists.get st).length ≤ b.settings.partition.listCapacity

theorem CommitKeeps.of_table {st : StationId} {t : List ParticleRecord}
    (h : t.map ParticleRecord.key = b.track.table.map ParticleRecord.key) : CommitKeeps st b (b.setTable t) :=
  ⟨h, fun _ _ => rfl, .inl rfl⟩

theorem applyCommit_keys (st : StationId) (r : ParticleRecord) (plan : Plan) (x : Settlement) (b : Block) :
    (applyCommit st r plan x b).track.table.map ParticleRecord.key = b.track.table.map ParticleRecord.key := by
  have joined (t : List ParticleRecord) (w : Written) :
      (markJoined st t w).map ParticleRecord.key = t.map ParticleRecord.key := by
    unfold markJoined
    split
    · exact foldl_keys (fun t tag => updateSlot_keys st _ tag t) _ t
    · rfl
  exact (foldl_keys joined _ _).trans
    ((updateSlot_keys st _ _ _).trans (foldl_keys (fun t tag => updateSlot_keys st _ tag t) _ _))

theorem commitAt_keeps (st : StationId) (tag : Nat) (b : Block) : CommitKeeps st b (commitAt st tag b) := by
  have same : CommitKeeps st b b := ⟨rfl, fun _ _ => rfl, .inl rfl⟩
  have finish (f : Slot → Slot) : CommitKeeps st b (b.setTable (updateSlot tag st f b.track.table)) :=
    .of_table (updateSlot_keys st f tag _)
  unfold commitAt
  split
  · exact same
  · split
    · exact same
    · dsimp only
      split
      · exact same
      · split
        · exact finish _
        next armed =>
          split
          · exact finish _
          · split
            · exact finish _
            · split
              · exact finish _
              next x settled =>
                refine ⟨applyCommit_keys st _ _ x b, fun i other => ?_, .inr ⟨not_not.mp armed, ?_⟩⟩
                · simp [applyCommit, Block.setTable, Block.setList, other]
                · simpa [applyCommit, Block.setTable, Block.setList] using settleCommit_capacity settled

theorem commitAt_tracking (st : StationId) (tag : Nat) (h : b.Tracking) : (commitAt st tag b).Tracking := by
  obtain ⟨keys, others, here⟩ := commitAt_keeps st tag b
  obtain ⟨⟨_, _, _, _, resetting, _, _, _, chain, line, store⟩, _, settings, msg, _⟩ := commitAt_same st tag b
  have stations := commitAt_stations st tag b
  generalize commitAt st tag b = c at *
  have placed : (b.setTable c.track.table).Tracking := h.setTable keys
  obtain ⟨h1, h2, h3, h4, h5, h6, h7, h8, h9, h10, h11⟩ := placed
  refine ⟨by rwa [resetting, line, chain, store, msg], by rwa [line, chain, store, msg], ?_, by rwa [line, store],
    by rwa [line], ?_, h7, by rwa [settings], h9, ?_, by rwa [msg, settings]⟩
  · rw [line]
    intro startup i
    rw [Block.station, stations]
    exact h3 startup i
  · intro i notArmed
    simp only [Block.station, stations] at notArmed
    by_cases same : i = st
    · subst same
      rcases here with kept | ⟨armed, _⟩
      · rw [kept]
        exact h.emptyList i notArmed
      · exact absurd armed notArmed
    · rw [others i same]
      exact h.emptyList i notArmed
  · intro i
    rw [settings]
    by_cases same : i = st
    · subst same
      rcases here with kept | ⟨_, few⟩
      · rw [kept]
        exact h.listCapacity i
      · exact few
    · rw [others i same]
      exact h.listCapacity i

theorem commitDueSlots_tracking (tag : Nat) (h : b.Tracking) : (commitDueSlots tag b).Tracking := by
  refine Block.Tracking.of_subsides ?_ (retireFinished_subsides _)
  refine List.foldlRecOn allStations _ h fun acc k st _ => ?_
  split
  · exact (commitAt_tracking st tag k).of_subsides (retireFinished_subsides _)
  · exact k

/-! ### Refresh and crossing -/

/-- What a refresh brings back is stored without regard to its length. -/
theorem soundRefresh_tracking (before : Sequencer) (ret : List Bool) (h : b.Tracking) :
    (soundRefresh before ret b).Tracking := by
  have stored : (b.setChain { b.chain with feedback := feedbackOf b.chain.boards ret, chainError := false }).Tracking :=
    h.setChain rfl
  exact drainDone_tracking (((stored.of_subsides (Block.Subsides.foldl stationRefresh_subsides allStations _)).of_subsides
    (calibrationStep_subsides before _)).of_subsides (retireFinished_subsides _))

theorem refresh_tracking (ret : List Bool) (h : b.Tracking) : (refresh ret b).Tracking := by
  have sent := h.of_subsides (sendRefresh_subsides b)
  unfold refresh
  split
  · split
    · exact soundRefresh_tracking _ ret sent
    · exact lineFault_tracking .chain (sent.setChain rfl)
  · exact h

theorem schedulerAtCrossing_tracking (c : Nat) (st : StationId) (h : b.Tracking) :
    (schedulerAtCrossing c b st).Tracking :=
  List.foldlRecOn _ _
    ((h.of_subsides (endAtCrossing_subsides st c b)).of_subsides (startAtCrossing_subsides st c _))
    fun _ k tag _ => commitAt_tracking st tag k

theorem crossing_tracking (c : Nat) (ret : List Bool) (h : b.Tracking) : (crossing c ret b).Tracking := by
  have scheduled := List.foldlRecOn allStations (schedulerAtCrossing c) (h.setPos { b.pos with slice := c })
    fun _ k st _ => schedulerAtCrossing_tracking c st k
  exact refresh_tracking ret (drainDone_tracking (scheduled.of_subsides (retireFinished_subsides _)))

/-! ### Position unit -/

theorem encoderChange_tracking (x y : Bool) (ret : List Bool) (h : b.Tracking) : (encoderChange x y ret b).Tracking := by
  have moved : (b.setEncoder x y).Tracking := { h with }
  unfold encoderChange
  dsimp only
  split
  · split
    · unfold countOnce
      dsimp only
      split
      · refine lineFault_tracking _ ?_
        split
        · exact crossing_tracking _ _ (moved.setPos _)
        · exact moved.setPos _
      · split
        · exact crossing_tracking _ _ (moved.setPos _)
        · exact moved.setPos _
    · exact moved
  · exact moved

theorem gateExpiry_tracking (h : b.Tracking) : (gateExpiry b).Tracking := by
  unfold gateExpiry
  dsimp only
  split
  · exact lineFault_tracking _ (h.setPos _)
  · exact h.setPos _

/-! ### A take -/

/-- A record is admitted in RUN alone, with a tag of its own, where the table has room. -/
theorem dispositionOf_admitted {r : DetectionRecord} (h : dispositionOf b r = .admitted) :
    b.line.state = .run ∧ findRecord r.tag b.track.table = none ∧
      b.track.table.length < b.settings.partition.trackCapacity := by
  unfold dispositionOf at h
  split at h
  · cases h
  next run =>
    split at h
    · cases h
    · split at h
      · cases h
      · split at h
        next d tested =>
          unfold routeTest at tested
          subst h
          split_ifs at tested <;> cases tested
        next =>
          split at h
          · cases h
          next unknown =>
            split at h
            · cases h
            next room => exact ⟨not_not.mp run, by simpa using unknown, by omega⟩

theorem insertRecord_tracking {r : ParticleRecord} (h : b.Tracking) (run : b.line.state = .run)
    (unknown : findRecord r.tag b.track.table = none)
    (room : b.track.table.length < b.settings.partition.trackCapacity) :
    (b.setTable (insertRecord r b.track.table)).Tracking :=
  { h with
    emptyTable := fun notRun => absurd run notRun
    tags := by
      have perm := (insertRecord_perm r b.track.table).map (·.tag)
      refine perm.nodup_iff.mpr (List.nodup_cons.mpr ⟨fun shared => ?_, h.tags⟩)
      obtain ⟨q, inTable, same⟩ := List.mem_map.mp shared
      exact findRecord_none unknown q inTable same
    capacity := by
      have perm := (insertRecord_perm r b.track.table).length_eq
      simp only [List.length_cons] at perm
      show (insertRecord r b.track.table).length ≤ b.settings.partition.trackCapacity
      omega
    order := insertRecord_order h.order }

theorem takeOne_tracking (h : b.Tracking) : (takeOne b).Tracking := by
  unfold takeOne
  split
  · exact h
  next r rest queue =>
    dsimp only
    have taken := h.setIntake (b.intake.takeHead rest b.clock (dispositionOf b r))
    split
    next admitted =>
      obtain ⟨run, unknown, room⟩ := dispositionOf_admitted admitted
      exact commitDueSlots_tracking _ (insertRecord_tracking (taken.setRanks _) run unknown room)
    next => exact taken

/-! ### Start-up, census, settle timers -/

/-- In STARTUP every list is empty. -/
theorem Block.Tracking.startup_lists (h : b.Tracking) (startup : b.line.state = .startup) (st : StationId) :
    b.lists.get st = [] := h.emptyList st (by simp [h.startup startup st])

/-- A change of partition with table and lists empty and the pointer in its table. -/
theorem Block.Tracking.setPartition (h : b.Tracking) {x : Settings} (table : b.track.table = [])
    (lists : ∀ st, b.lists.get st = []) (pointer : b.msg.pointer.index ≤
      (match b.msg.pointer.table with
      | .route => 63
      | .pattern => 7 + x.partition.ramPatterns)) : (b.setSettings x).Tracking :=
  { h with
    capacity := by simp [table]
    listCapacity := by simp [lists]
    pointer := pointer }

theorem finishLoad_tracking (h : b.Tracking) (running : b.resetting = none) (loading : b.store.loading = true) :
    (finishLoad b).Tracking := by
  obtain ⟨startup, _, route⟩ := h.inLoad loading
  have index := h.pointer
  rw [route] at index
  have read := h.setPartition
    (x := if b.store.image.sound then b.store.image.contents.holdsOff else Settings.factory)
    (h.emptyTable (by simp [startup]) (by simp [startup])) (h.startup_lists startup) (by rw [route]; exact index)
  exact { read with
    inReset := fun reset => absurd running reset
    inLoad := fun loading => Bool.noConfusion loading }

/-- STARTUP ends in STANDBY or HALT. -/
theorem stateAfterStartup_rests (halt : Bool) :
    stateAfterStartup halt ≠ .startup ∧ stateAfterStartup halt ≠ .run ∧ stateAfterStartup halt ≠ .draining := by
  cases halt <;> decide

theorem endStartup_tracking (h : b.Tracking) (running : b.resetting = none) (loaded : b.store.loading = false)
    (startup : b.line.state = .startup) : (endStartup b).Tracking := by
  have awake := ((h.setPos (b.pos.afterStartup b.settings)).setIntake { b.intake with ready := true }).report
    (.start b.line.record.cause b.line.settingsLost b.chain.boards b.chain.censusOk b.settings.partition)
  have table : b.track.table = [] := h.emptyTable (by simp [startup]) (by simp [startup])
  have entered := awake.toLine (x := { b.line with state := stateAfterStartup b.line.halt.taken }) running loaded
    (stateAfterStartup_rests _).1 (fun _ => (stateAfterStartup_rests _).2) fun _ _ => table
  exact (entered.report _).setPos _

theorem endClearFault_tracking (h : b.Tracking) (faulted : b.line.state = .fault) : (endClearFault b).Tracking := by
  have table : b.track.table = [] := h.emptyTable (by simp [faulted]) (by simp [faulted])
  have keeps (f : FaultCause) : (b.setLine { b.line with fault := f }).Tracking := h.setLine rfl
  unfold endClearFault
  dsimp only
  split
  · exact tracking_keptByLink.replying _ _ _ (keeps _)
  · split
    · exact tracking_keptByLink.replying _ _ _ (enterLine_tracking .clearFault (keeps .none) (by simp [faulted])
        (by decide) (fun _ => by decide) fun _ _ => table)
    · exact tracking_keptByLink.replying _ _ _ (keeps _)

theorem finishCensus_tracking (trials : List (Option Nat)) (h : b.Tracking) (running : b.resetting = none)
    (census : b.chain.census = true) : (finishCensus trials b).Tracking := by
  have loaded : b.store.loading = false := by
    by_contra loading
    have := (h.inLoad (by simpa using loading)).2.1
    simp [census] at this
  have counted : (takeCensus trials b).Tracking := h.setCensus running loaded _
  unfold finishCensus
  dsimp only
  split
  next startup => exact endStartup_tracking counted running loaded startup
  next faulted => exact endClearFault_tracking counted faulted
  all_goals exact counted

theorem becomeArmed_tracking (st : StationId) (h : b.Tracking) (past : b.line.state ≠ .startup) :
    (becomeArmed st b).Tracking := by
  have armed := h.setStation (st := st) (x := { b.station st with
      state := .armed, settle := none, channels := (b.station st).channels.map Channel.quiet }) past
    fun notArmed => absurd rfl notArmed
  exact armed.report _

theorem settleExpiry_tracking {st : StationId} (h : b.Tracking) (due : settleDue st b = true) :
    (becomeArmed st b).Tracking := by
  refine becomeArmed_tracking st h fun startup => ?_
  simp only [settleDue, Bool.and_eq_true, beq_iff_eq] at due
  rw [h.startup startup st] at due
  exact absurd due.1.2 (by decide)

/-! ### Plant inputs -/

theorem onInput_tracking (input : PlantInput) (f : PlantFilter → PlantFilter) (h : b.Tracking) :
    (onInput input f b).Tracking := by
  cases input <;> exact h.setLine rfl

theorem assertHalt_tracking (h : b.Tracking) : (assertHalt b).Tracking := by
  have taken := onInput_tracking .halt PlantFilter.takeLevel h
  unfold assertHalt
  dsimp only
  split
  next acts =>
    refine haltLine_tracking taken fun startup => ?_
    have before : b.line.state = .startup := startup
    simp [before, haltActs] at acts
  next => exact taken.setLine rfl

theorem releaseHalt_tracking (h : b.Tracking) : (releaseHalt b).Tracking := by
  have taken := onInput_tracking .halt PlantFilter.takeLevel h
  unfold releaseHalt
  dsimp only
  split
  next halt =>
    have state : (onInput .halt PlantFilter.takeLevel b).line.state = .halt := halt
    exact enterLine_tracking _ taken (by simp [state]) (by decide) (fun _ => by decide)
      fun _ _ => h.emptyTable (by simp [halt]) (by simp [halt])
  next => exact taken

/-! ### Control link and resets -/

theorem examineControl_pointer (now : Nat) (v : Byte) (stopBit : Bool) (m : MessageUnit) :
    (examineControl now v stopBit m).pointer = m.pointer := by
  have inFrame (bytes : List Byte) (w : MessageUnit) : (controlInFrame now bytes w).pointer = w.pointer := by
    unfold controlInFrame
    dsimp only
    split
    · rfl
    · split
      · rfl
      · split
        · unfold offerFrame
          split <;> rfl
        · rfl
  have discarded : (if m.receiver.late Config.controlGap now then discardControl LinkTallies.gapErrors m else m).pointer =
      m.pointer := by split <;> rfl
  unfold examineControl
  dsimp only
  split
  · split <;> exact discarded
  · split
    · exact (inFrame _ _).trans discarded
    · exact discarded

theorem Block.Blank.tracking (h : b.Blank) (loaded : b.resetting ≠ none → b.store.loading = false) : b.Tracking where
  inReset reset := ⟨h.line.1, by simp [h.chain], loaded reset, by simp [h.msg]⟩
  inLoad _ := ⟨h.line.1, by simp [h.chain], by simp [h.msg]⟩
  startup _ st := by simp [Block.station, h.stations]
  restoring := by simp [h.activity]
  emptyTable _ _ := h.table
  emptyList st _ := h.lists st
  tags := by simp [h.table]
  capacity := by simp [h.table]
  order := by simp [h.table]
  listCapacity := by simp [h.lists]
  pointer := by simp [h.msg]

theorem beginReset_tracking (cause : ResetCause) (b : Block) : (beginReset cause b).Tracking :=
  (beginReset_blank cause b).tracking fun _ => rfl

theorem finishSending_tracking (h : b.Tracking) : (finishSending b).Tracking := by
  unfold finishSending
  split
  · exact h
  · split
    · exact h.setMsg rfl
    · dsimp only
      split
      · exact beginReset_tracking _ _
      · exact h.setMsg rfl

theorem finishReset_tracking (h : b.Tracking) (ended : resetOver b = true) : (finishReset b).Tracking := by
  have reset : b.resetting ≠ none := by
    intro none
    simp [resetOver, none] at ended
  obtain ⟨startup, census, _, route⟩ := h.inReset reset
  have taken := h.setLine (x := { b.line with
    halt := b.line.halt.takeLevel, airLow := b.line.airLow.takeLevel, key := b.line.key.takeLevel }) rfl
  exact { taken with
    inReset := fun reset => absurd rfl reset
    inLoad := fun _ => ⟨startup, census, route⟩ }

end Sys2Proof.Machine
end

section
/-! PROOFS. Every step keeps the laws of the table, the lists and the pointer: the requests, then every command. A request
but for STATUS and IDENTIFY is judged past STARTUP, where no reset and no load is in progress. -/

namespace Sys2Proof.Machine

variable {b : Block}

/-! ### Requests to the line -/

theorem enterRun_tracking (h : b.Tracking) (past : b.line.state ≠ .startup)
    (idle : b.store.activity ≠ .restoring) : (enterRun b).Tracking := by
  have entered := enterLine_tracking .lineRun h past (new := .run) (by decide) (fun restoring => absurd restoring idle)
    fun notRun => absurd rfl notRun
  unfold enterRun
  dsimp only
  split
  · exact lineFault_tracking _ entered
  · exact entered

theorem orderRun_tracking (h : b.Tracking) : (orderRun b).1.Tracking := by
  unfold orderRun
  split
  next standby =>
    split
    · exact h
    next free =>
      refine enterRun_tracking h (by simp [standby]) fun restoring => free ?_
      simp [workInProgress, restoring]
  next draining =>
    exact enterRun_tracking h (by simp [draining]) fun restoring => (h.restoring restoring).2 draining
  all_goals exact h

theorem orderDrain_tracking (h : b.Tracking) : (orderDrain b).1.Tracking := by
  unfold orderDrain
  split
  next run =>
    refine enterLine_tracking _ h (by simp [run]) ?_ (fun restoring => absurd run (h.restoring restoring).1) ?_
    · split <;> decide
    · split
      next empty => exact fun _ _ => empty
      next => exact fun _ notDraining => absurd rfl notDraining
  all_goals exact h

theorem flushed_tracking (h : b.Tracking) (past : b.line.state ≠ .startup) :
    (enterLine .standby .flush (flush b)).Tracking :=
  enterLine_tracking _ (h.of_subsides (flush_subsides b)) (by rwa [(flush_subsides b).line]) (by decide)
    (fun _ => by decide) fun _ _ => (flush_spec b).2.1

theorem orderFlush_tracking (h : b.Tracking) : (orderFlush b).1.Tracking := by
  unfold orderFlush
  split
  next run => exact flushed_tracking h (by simp [run])
  next draining => exact flushed_tracking h (by simp [draining])
  all_goals exact h

theorem ownLineSet_tracking (p : List Byte) (h : b.Tracking) : (ownLineSet p b).1.Tracking := by
  unfold ownLineSet
  split
  · exact h
  · split
    · have written := h.setSettings (x := { b.settings with
        sliceLength := field p 0 2, reverseLimit := field p 2 2, staleLimit := field p 4 3 }) rfl
      exact written.setPos _
    · exact h

theorem ownClearFault_tracking (p : List Byte) (h : b.Tracking) : (ownClearFault p b).1.Tracking := by
  unfold ownClearFault
  split
  · exact h
  next barred =>
    have faulted : b.line.state = .fault := by
      by_contra other
      exact barred (.inl other)
    obtain ⟨running, loaded⟩ := h.past (by simp [faulted])
    exact (h.setCensus running loaded { b.chain with census := true }).setLine rfl

/-! ### Requests to stations -/

theorem clearChannels_tracking (st : StationId) (h : b.Tracking) : (clearChannels st b).Tracking :=
  h.setStation_same rfl

theorem ownStationSet_tracking (st : StationId) (p : List Byte) (h : b.Tracking) :
    (ownStationSet st p b).1.Tracking := by
  unfold ownStationSet
  split
  · exact h
  · split
    · exact h
    next c _ =>
      split
      · exact h
      · have written := h.setSettings (x := { b.settings with stations := b.settings.stations.set st c }) rfl
        exact clearChannels_tracking st written

theorem startArming_tracking (st : StationId) (h : b.Tracking) (past : b.line.state ≠ .startup)
    (disarmed : (b.station st).state = .disarmed) : (startArming st b).Tracking := by
  have arming := h.setStation (st := st) (x := { b.station st with
      state := .arming, enable := true, settle := some b.clock }) past fun _ => h.emptyList st (by simp [disarmed])
  unfold startArming
  dsimp only
  split
  · exact becomeArmed_tracking st (arming.report _) past
  · exact arming.report _

theorem ownArm_tracking (st : StationId) (p : List Byte) (h : b.Tracking) (past : b.line.state ≠ .startup) :
    (ownArm st p b).1.Tracking := by
  unfold ownArm
  split
  · exact h
  · split
    · exact h
    · exact h
    · exact h
    next disarmed =>
      split
      · exact h
      · split
        · exact startArming_tracking st h past disarmed
        · exact h

theorem ownFloor_tracking (st : StationId) (p : List Byte) (h : b.Tracking) : (ownFloor st p b).1.Tracking := by
  unfold ownFloor
  split
  · exact h.setSettings rfl
  · exact h

theorem ownClearChannel_tracking (st : StationId) (p : List Byte) (h : b.Tracking) :
    (ownClearChannel st p b).1.Tracking := by
  have cleared := updateChannel_attends st (field p 1 1) Channel.cleared b
  unfold ownClearChannel clearChannel
  dsimp only
  split
  · show Block.Tracking (if _ then _ else _)
    split
    next faulted =>
      exact (h.of_subsides cleared.subsides).of_subsides
        (becomeDisarmed_subsides _ (by rw [cleared.states, faulted.1]; decide))
    next => exact h.of_subsides cleared.subsides
  · exact h

/-! ### Requests to the tables -/

theorem indexOk_iff (q : Pointer) (part : Partition) :
    indexOk q.table q.index part = true ↔
      q.index ≤ (match q.table with
      | .route => 63
      | .pattern => 7 + part.ramPatterns) := by
  obtain ⟨table, index, step⟩ := q
  cases table <;> simp [indexOk]

/-- The pointer goes to an index of its table, past STARTUP. -/
theorem setPointer_tracking {q : Pointer} (h : b.Tracking) (past : b.line.state ≠ .startup)
    (inside : indexOk q.table q.index b.settings.partition = true) : (setPointer q b).Tracking :=
  { h with
    inReset := fun reset => absurd (h.past past).1 reset
    inLoad := fun loading => absurd (h.inLoad loading).1 past
    pointer := (indexOk_iff q _).mp inside }

theorem Block.Tracking.indexOk (h : b.Tracking) :
    indexOk b.msg.pointer.table b.msg.pointer.index b.settings.partition = true :=
  (indexOk_iff _ _).mpr h.pointer

theorem ramPatterns_pos (part : Partition) : 8 ≤ part.ramPatterns := by cases part <;> decide

@[simp] theorem move_table (part : Partition) (q : Pointer) : (q.move part).table = q.table := by
  unfold Pointer.move
  dsimp only
  split <;> rfl

/-- The pointer's move keeps it in its table (R160). -/
theorem move_indexOk {part : Partition} {q : Pointer} (h : indexOk q.table q.index part = true) :
    indexOk (q.move part).table (q.move part).index part = true := by
  have most := ramPatterns_pos part
  rw [indexOk_iff] at h ⊢
  obtain ⟨table, index, step⟩ := q
  cases step with
  | hold => exact h
  | up =>
    cases table with
    | route =>
      have inside : index ≤ 63 := h
      show (if index = 63 then 0 else index + 1) ≤ 63
      split <;> omega
    | pattern =>
      simp only [Pointer.move, Pointer.region] at h ⊢
      split_ifs <;> omega
  | down =>
    cases table with
    | route =>
      have inside : index ≤ 63 := h
      show (if index = 0 then 63 else index - 1) ≤ 63
      split <;> omega
    | pattern =>
      simp only [Pointer.move, Pointer.region] at h ⊢
      split_ifs <;> omega

theorem ownSelect_tracking (p : List Byte) (h : b.Tracking) (past : b.line.state ≠ .startup) :
    (ownSelect p b).1.Tracking := by
  unfold ownSelect
  split
  · split
    next inside => exact setPointer_tracking h past inside
    next => exact h
  · exact h

theorem writeRoute_tracking {acc : Block × Bool} (r : RouteEntry) (h : acc.1.Tracking)
    (past : acc.1.line.state ≠ .startup) : (writeRoute acc r).1.Tracking := by
  have written := h.setSettings (x := { acc.1.settings with
    routes := acc.1.settings.routes.set acc.1.msg.pointer.index
      (writtenRoute acc.1 (acc.1.route acc.1.msg.pointer.index) r) }) rfl
  exact setPointer_tracking written past (move_indexOk h.indexOk)

theorem writePattern_tracking (x : Pattern) (h : b.Tracking) (past : b.line.state ≠ .startup) :
    (writePattern b x).Tracking := by
  have written := h.setSettings (x := { b.settings with
    patterns := b.settings.patterns.set (b.msg.pointer.index - 8) x }) rfl
  exact setPointer_tracking written past (move_indexOk h.indexOk)

theorem ownWrite_tracking (p : List Byte) (h : b.Tracking) (past : b.line.state ≠ .startup) :
    (ownWrite p b).1.Tracking := by
  unfold ownWrite
  split
  · unfold writeRoutes
    split
    · exact h
    next l _ =>
      have batch : (l.foldl writeRoute (b, false)).1.Tracking ∧ (l.foldl writeRoute (b, false)).1.line.state ≠ .startup :=
        List.foldlRecOn (motive := fun acc : Block × Bool => acc.1.Tracking ∧ acc.1.line.state ≠ .startup) _ _
          ⟨h, past⟩ fun acc k r _ => ⟨writeRoute_tracking r k.1 k.2, k.2⟩
      exact batch.1
  · unfold writePatterns
    dsimp only
    split
    · exact h
    · have batch := List.foldlRecOn (motive := fun c : Block => c.Tracking ∧ c.line.state ≠ .startup)
        ((entriesOf 6 p).map patternOf) writePattern ⟨h, past⟩ fun c k x _ => ⟨writePattern_tracking x k.1 k.2, k.2⟩
      exact batch.1

theorem pointerAfter_indexOk {part : Partition} (n : Nat) {q : Pointer} (h : indexOk q.table q.index part = true) :
    indexOk (pointerAfter part n q).table (pointerAfter part n q).index part = true := by
  induction n generalizing q with
  | zero => exact h
  | succ n ih => exact ih (move_indexOk h)

theorem ownRead_tracking (p : List Byte) (h : b.Tracking) (past : b.line.state ≠ .startup) :
    (ownRead p b).1.Tracking := by
  unfold ownRead
  dsimp only
  split
  · exact setPointer_tracking h past (pointerAfter_indexOk _ h.indexOk)
  · exact h

theorem allDisarmed_iff (b : Block) : allDisarmed b = true ↔ ∀ st, (b.station st).state = .disarmed := by
  simp only [allDisarmed, List.all_eq_true, beq_iff_eq]
  exact ⟨fun h st => h st (by fin_cases st <;> decide), fun h st _ => h st⟩

/-- The pointer in the table it is left in by a change of partition (R71). -/
theorem within_indexOk {part next : Partition} {q : Pointer} (h : indexOk q.table q.index part = true) :
    indexOk (q.within next).table (q.within next).index next = true := by
  have most := ramPatterns_pos next
  obtain ⟨table, index, step⟩ := q
  cases table with
  | route =>
    simp only [indexOk, decide_eq_true_eq] at h
    simpa [Pointer.within, indexOk] using h
  | pattern =>
    unfold Pointer.within
    split
    next => simpa [indexOk] using by omega
    next inside =>
      simp only [true_and] at inside
      simpa [indexOk] using inside

@[simp] theorem within_table (part : Partition) (q : Pointer) : (q.within part).table = q.table := by
  unfold Pointer.within
  split <;> rfl

/-- With table and lists empty the partition changes, and the pointer with it. -/
theorem repartition_tracking {x : Settings} (h : b.Tracking) (table : b.track.table = [])
    (disarmed : allDisarmed b = true) :
    (setPointer (b.msg.pointer.within x.partition) (b.setSettings x)).Tracking :=
  { h with
    inReset := fun reset => by
      obtain ⟨startup, census, loading, route⟩ := h.inReset reset
      exact ⟨startup, census, loading, (within_table _ _).trans route⟩
    inLoad := fun loading => by
      obtain ⟨startup, census, route⟩ := h.inLoad loading
      exact ⟨startup, census, (within_table _ _).trans route⟩
    capacity := by simp [setPointer, table]
    listCapacity := fun st => by
      have empty := h.emptyList st (by simp [(allDisarmed_iff b).mp disarmed st])
      simp [setPointer, empty]
    pointer := (indexOk_iff _ _).mp (within_indexOk h.indexOk) }

theorem ownPartition_tracking (p : List Byte) (h : b.Tracking) : (ownPartition p b).1.Tracking := by
  unfold ownPartition
  split
  · exact h
  next barred =>
    obtain ⟨standby, disarmed⟩ := not_or.mp barred
    have standby := not_not.mp standby
    split
    · exact h
    next part _ =>
      exact repartition_tracking (x := { b.settings with
          partition := part, patterns := carryPatterns part.ramPatterns b.settings.patterns })
        h (h.emptyTable (by simp [standby]) (by simp [standby])) (by simpa using disarmed)

theorem ownTallyRead_tracking (p : List Byte) (h : b.Tracking) : (ownTallyRead p b).1.Tracking := by
  have cleared (clear : Bool) (c : Block) (k : c.Tracking) : (if clear = true then c else b).Tracking := by
    split
    · exact k
    · exact h
  unfold ownTallyRead
  split
  · exact h
  · unfold readTallies
    dsimp only
    split
    · exact cleared _ _ (h.setIntake _)
    · exact cleared _ _ (h.setMsg rfl)
    · split
      next st _ =>
        have zeroed : (b.setTrack { b.track with outcomes := b.track.outcomes.set st zeroOutcomes }).Tracking :=
          { h with }
        exact cleared _ _ (zeroed.setStation_same rfl)
      · exact h

/-! ### Requests on records -/

theorem settleRecords_tracking (h : b.Tracking) : (settleRecords b).Tracking :=
  drainDone_tracking (h.of_subsides (retireFinished_subsides b))

theorem cancelRecord_tracking (r : ParticleRecord) (h : b.Tracking) : (cancelRecord r b).1.Tracking := by
  refine settleRecords_tracking (List.foldlRecOn allStations _ h fun acc k st _ => ?_)
  unfold cancelAt
  split
  · exact k
  · dsimp only
    split
    · exact (k.of_subsides (setList_subsides (withdrawTags_length _ _ _))).setTable (updateSlot_keys _ _ _ _)
    · exact k.setTable (updateSlot_keys _ _ _ _)

theorem ownAmend_tracking (p : List Byte) (h : b.Tracking) : (ownAmend p b).1.Tracking := by
  unfold ownAmend
  split
  · refine forRecord_keeps h fun r _ => ?_
    unfold amendRecord
    split
    · exact h
    · split
      · exact settleRecords_tracking (h.setTable (updateRecord_keys (f := ParticleRecord.amendedAway _) (fun _ => rfl) _ _))
      · exact settleRecords_tracking
          (commitDueSlots_tracking _ ((h.setRanks _).setTable
            (updateRecord_keys (f := ParticleRecord.rebuilt _ _ _) (fun _ => rfl) _ _)))
  · exact h

/-! ### Settings store -/

theorem storeDone_tracking (work : Work) (ending : DoneResult) (h : b.Tracking) : (storeDone work ending b).Tracking :=
  (h.setStore (x := { b.store with activity := .idle }) rfl (by simp)).report _

theorem finishSave_tracking (agrees : Bool) (h : b.Tracking) : (finishSave agrees b).Tracking := by
  unfold finishSave
  split
  next copy saving =>
    split
    · exact storeDone_tracking _ _ (h.setStore (x := { b.store with image := ⟨true, copy⟩ }) rfl h.restoring)
    · exact storeDone_tracking _ _
        (h.setStore (x := { b.store with image := { b.store.image with sound := false } }) rfl h.restoring)
  · exact h
  · exact h

theorem applyImage_tracking (h : b.Tracking) (table : b.track.table = []) (disarmed : allDisarmed b = true) :
    (applyImage b).Tracking :=
  List.foldlRecOn allStations _
    ((repartition_tracking (x := b.store.image.contents.holdsOff) h table disarmed).setPos
      (b.pos.takeLimits b.store.image.contents.holdsOff.sliceLength b.store.image.contents.holdsOff.reverseLimit))
    fun _ k st _ => clearChannels_tracking st k

theorem finishRestore_tracking (h : b.Tracking) (restoring : b.store.activity = .restoring) :
    (finishRestore b).Tracking := by
  obtain ⟨notRun, notDraining⟩ := h.restoring restoring
  unfold finishRestore
  split
  · exact storeDone_tracking _ _ h
  · split
    · exact storeDone_tracking _ _ h
    next disarmed =>
      exact storeDone_tracking _ _ (applyImage_tracking h (h.emptyTable notRun notDraining) (by simpa using disarmed))

theorem ownSave_tracking (p : List Byte) (h : b.Tracking) : (ownSave p b).1.Tracking := h.setStore rfl (by simp)

theorem ownRestore_tracking (p : List Byte) (h : b.Tracking) : (ownRestore p b).1.Tracking := by
  unfold ownRestore
  split
  · exact h
  next barred =>
    have standby : b.line.state = .standby := by
      by_contra other
      exact barred (.inl other)
    exact h.setStore rfl fun _ => by simp [standby]

theorem setLock_tracking (m : LockMode) (h : b.Tracking) : (setLock m b).Tracking := h.setStore rfl h.restoring

theorem setLockAndDefault_tracking (m : LockMode) (h : b.Tracking) : (setLockAndDefault m b).Tracking :=
  setLock_tracking m (h.setSettings rfl)

/-! ### Every command -/

theorem exec_tracking {c : Instr} {s t : State} (h : s.toBlock.Tracking) (run : exec c s = .next t) :
    t.toBlock.Tracking := by
  have link := tracking_keptByLink
  have plain {n : Nat} {own : List Byte → Block → Block × Option Reply}
      (k : ∀ p b, b.line.state ≠ .startup → b.Tracking → (own p b).1.Tracking) :
      KeptByJudge Block.Tracking (plainRequest n own) :=
    keptByJudge_judged fun p b _ => k p b
  have edit {n : Nat} {own : List Byte → Block → Block × Option Reply}
      (k : ∀ p b, b.line.state ≠ .startup → b.Tracking → (own p b).1.Tracking) :
      KeptByJudge Block.Tracking (editRequest n own) :=
    keptByJudge_judged fun p b _ => k p b
  have lock {code : Nat} {act : Block → Block} (k : ∀ b, b.Tracking → (act b).Tracking) :
      KeptByJudge Block.Tracking (lockRequest code act) :=
    keptByJudge_judged fun p b _ _ before => by
      split
      · exact k b before
      · exact before
  have purge {b c : Block} (before : b.Tracking) (k : b.Subsides c) : c.Tracking := before.of_subsides k
  cases c with
  | encoderCount a b ret => exact link.event (encoderChange_tracking a b ret h) run
  | speedGateExpiry => exact link.eventIf h (fun _ => gateExpiry_tracking h) run
  | beacon => exact link.eventIf h (fun _ => h.setPos _) run
  | detectionByte v => exact link.eventIf h (fun _ => h.setIntake _) run
  | detectionGapTimeout => exact link.eventIf h (fun _ => h.setIntake _) run
  | take => exact link.eventIf h (fun _ => takeOne_tracking h) run
  | loadEnd =>
    refine link.eventIf h (fun due => ?_) run
    simp only [Block.running, Bool.and_eq_true, Option.isNone_iff_eq_none] at due
    exact finishLoad_tracking h due.1 due.2
  | censusEnd trials =>
    refine link.eventIf h (fun due => ?_) run
    simp only [Block.running, Bool.and_eq_true, Option.isNone_iff_eq_none] at due
    exact finishCensus_tracking trials h due.1 due.2
  | refreshTimerExpiry ret => exact link.eventIf h (fun _ => refresh_tracking ret h) run
  | settleExpiry st => exact link.eventIf h (fun due => settleExpiry_tracking h due) run
  | plantInputLevelChange input current => exact link.event (onInput_tracking input _ h) run
  | haltAssertion => exact link.eventIf h (fun _ => assertHalt_tracking h) run
  | haltRelease => exact link.eventIf h (fun _ => releaseHalt_tracking h) run
  | airLowChange => exact link.eventIf h (fun _ => onInput_tracking .airLow _ h) run
  | keyChange => exact link.eventIf h (fun _ => onInput_tracking .key _ h) run
  | controlByte v stop => exact link.eventIf h (fun _ => h.setMsg (examineControl_pointer _ v stop _)) run
  | controlGapTimeout =>
    exact link.eventIf h (fun _ => h.setMsg (m := discardControl LinkTallies.gapErrors s.msg) rfl) run
  | transmitComplete => exact link.eventIf h (fun _ => finishSending_tracking h) run
  | unknownKind =>
    refine link.serve h (fun p b _ k => ?_) run
    exact k.setMsg rfl
  | identify =>
    refine link.serve h (fun p b _ k => ?_) run
    unfold always
    split <;> exact k
  | status =>
    refine link.serve h (fun p b _ k => ?_) run
    unfold always
    split <;> exact k
  | lineRun => exact link.serve h (plain fun p b _ k => lineOrder_keeps k (orderRun_tracking k)) run
  | lineStandbyDrain => exact link.serve h (plain fun p b _ k => lineOrder_keeps k (orderDrain_tracking k)) run
  | lineStandbyFlush => exact link.serve h (plain fun p b _ k => lineOrder_keeps k (orderFlush_tracking k)) run
  | lineSet => exact link.serve h (edit fun p b _ k => ownLineSet_tracking p k) run
  | stationSet => exact link.serve h (edit fun p b _ k => forStation_keeps k fun st => ownStationSet_tracking st p k) run
  | arm => exact link.serve h (plain fun p b past k => forStation_keeps k fun st => ownArm_tracking st p k past) run
  | disarm =>
    exact link.serve h (plain fun p b _ k => forStation_keeps k fun st =>
      drainDone_tracking (k.of_subsides (disarmStation_subsides .disarm b st))) run
  | floor => exact link.serve h (plain fun p b _ k => forStation_keeps k fun st => ownFloor_tracking st p k) run
  | clearChannel =>
    exact link.serve h (plain fun p b _ k => forStation_keeps k fun st => ownClearChannel_tracking st p k) run
  | select => exact link.serve h (plain fun p b past k => ownSelect_tracking p k past) run
  | write => exact link.serve h (keptByJudge_judged fun p b _ past k => ownWrite_tracking p k past) run
  | read => exact link.serve h (plain fun p b past k => ownRead_tracking p k past) run
  | releaseHolds =>
    refine link.serve h (edit fun p b _ k => ?_) run
    exact k.setSettings (x := { b.settings with routes := b.settings.routes.map (released b) }) rfl
  | rankReset => exact link.serve h (plain fun p b _ k => k.setRanks _) run
  | partition => exact link.serve h (edit fun p b _ k => ownPartition_tracking p k) run
  | cancel => exact link.serve h (plain fun p b _ k => forRecord_keeps k fun r _ => cancelRecord_tracking r k) run
  | amend => exact link.serve h (plain fun p b _ k => ownAmend_tracking p k) run
  | trackQuery => exact link.serve h (plain fun p b _ k => forRecord_keeps k fun r _ => k) run
  | listRead =>
    refine link.serve h (plain fun p b _ k => forStation_keeps k fun st => ?_) run
    unfold ownListRead
    dsimp only
    split <;> exact k
  | tallyRead => exact link.serve h (plain fun p b _ k => ownTallyRead_tracking p k) run
  | save => exact link.serve h (edit fun p b _ k => ownSave_tracking p k) run
  | saveEnd agrees => exact link.eventIf h (fun _ => finishSave_tracking agrees h) run
  | restore => exact link.serve h (edit fun p b _ k => ownRestore_tracking p k) run
  | restoreEnd =>
    refine link.eventIf h (fun due => finishRestore_tracking h ?_) run
    simp only [Bool.and_eq_true, beq_iff_eq] at due
    exact due.2
  | lockOpen => exact link.serve h (lock fun b k => setLockAndDefault_tracking _ k) run
  | lockKeyed => exact link.serve h (lock fun b k => setLockAndDefault_tracking _ k) run
  | lockSealed => exact link.serve h (lock fun b k => setLock_tracking _ k) run
  | purgeStart =>
    exact link.serve h (keptByJudge_judged fun p b _ _ k => purge k (ownPurgeStart_subsides p b)) run
  | purgeSuspend => exact link.serve h (purgeRequest_keeps (fun _ _ => purge) orderSuspend_subsides) run
  | purgeResume => exact link.serve h (purgeRequest_keeps (fun _ _ => purge) orderResume_subsides) run
  | purgeAbort => exact link.serve h (purgeRequest_keeps (fun _ _ => purge) orderAbort_subsides) run
  | purgeShotEnd => exact link.eventIf h (fun _ => purge h (endShot_subsides _)) run
  | purgeGapEnd => exact link.eventIf h (fun _ => purge h (endGap_subsides _)) run
  | calibrate =>
    exact link.serve h (plain fun p b _ k => forStation_keeps k fun st => purge k (ownCalibrate_subsides st p b)) run
  | clearFault => exact link.serve h (plain fun p b _ k => ownClearFault_tracking p k) run
  | restart =>
    refine link.serve h (plain fun p b _ k => ?_) run
    unfold ownRestart
    split <;> exact k
  | powerOn => exact link.event (beginReset_tracking _ _) run
  | supplyDip => exact link.event (beginReset_tracking _ _) run
  | resetLineAssert =>
    refine link.eventIf h (fun _ => ?_) run
    exact { beginReset_tracking .resetLine s.toBlock with }
  | resetLineRelease =>
    refine link.event (f := fun b => b.setResetLine false) ?_ run
    exact { h with }
  | resetEnd => exact link.eventIf h (fun ended => finishReset_tracking h ended) run
  | supplyRisesAboveResetThreshold =>
    refine link.event (f := fun b => b.setResetting (b.resetting.map (ResetProgress.supplyRises b.clock))) ?_ run
    exact { h with inReset := fun reset => h.inReset (by simpa using reset) }

/-- Settles O4: command by command on the front of the queue; the microsecond of an empty one moves the time base alone. -/
theorem everyStepKeepsTracking : Obligations.EveryStepKeepsTracking := by
  unfold Obligations.EveryStepKeepsTracking
  intro s t h run
  unfold step at run
  split at run
  · cases run
    exact { h with }
  next c rest _ => exact exec_tracking (s := { s with pending := rest }) h run

/-- Settles O5: right after reset the blocks are blank. -/
theorem resetHasShapeAndTracking : Obligations.ResetHasShapeAndTracking := by
  have blank : State.reset.toBlock.Blank := {
    pos := rfl, intake := rfl, table := rfl, outcomes := Four.get_all4 zeroOutcomes, lists := Four.get_all4 []
    ranks := rfl, settings := (factoryDefaults_iff _).mpr rfl, stations := Four.get_all4 Station.afterReset
    chain := rfl, msg := rfl, maint := rfl, activity := rfl, line := ⟨rfl, rfl, rfl, rfl⟩ }
  exact ⟨blank.shaped factory_sized, blank.tracking fun reset => absurd rfl reset⟩

end Sys2Proof.Machine
end

section
/-! PROOFS. The position unit (R1 to R13): what a change of the encoder lines, the speed gate and the beacon do. -/

namespace Sys2Proof.Machine

theorem reached_iff {b : Block} {start t : Nat} : b.reached start t = true ↔ start + t ≤ b.clock :=
  decide_eq_true_iff

/-! ### One count -/

theorem netAfter_inRange {n : Int} (low : -281474976710655 < n) (high : n < 281474976710655) (forward : Bool) :
    netAfter n forward = if forward = true then n + 1 else n - 1 := by
  unfold netAfter
  dsimp only
  rw [if_pos]
  simp only [Config.netMax]
  split <;> omega

/-- A reverse count takes N down, from above its range to a value within (log 10). -/
theorem netAfter_reverse_le {n : Int} (low : -281474976710655 < n) : netAfter n false ≤ n - 1 := by
  have := (Config.netBeyondRange (n - 1)).isLt
  unfold netAfter
  simp only [Bool.false_eq_true, if_false, Config.netMax]
  split <;> omega

theorem reverseFlagAtCount_eq (flag forward : Bool) (x limit : Nat) (n : Int) (ahead : n ≤ x) :
    reverseFlagAtCount flag (!forward) ((x : Int) - n).toNat limit =
      if n = x then false
      else if forward = false ∧ (limit : Int) < x - n then true
      else flag := by
  have zero : ((x : Int) - n).toNat = 0 ↔ n = x := by omega
  have beyond : limit < ((x : Int) - n).toNat ↔ (limit : Int) < x - n := by omega
  simp [reverseFlagAtCount, zero, beyond]

/-- What a decoded count makes of the position unit (R1, R3, R8). -/
theorem count_eq {p : PositionUnit} (ahead : p.n ≤ p.x) (low : -281474976710655 < p.n) (high : p.n < 281474976710655)
    (forward started : Bool) (limit : Nat) {n : Int} {x : Nat} (hn : n = if forward = true then p.n + 1 else p.n - 1)
    (hx : x = if forward = true ∧ p.n = p.x then p.x + 1 else p.x) :
    p.count forward started limit =
      { p with
        n := n
        x := x
        reverseFlag :=
          if started = true then
            if n = x then false
            else if forward = false ∧ (limit : Int) < x - n then true
            else p.reverseFlag
          else p.reverseFlag } := by
  have net : netAfter p.n forward = n := by rw [netAfter_inRange low high, hn]
  have scan : max p.x n.toNat = x := by
    rw [hx, hn]
    cases forward <;> simp only [Bool.false_eq_true, if_false, if_true, false_and, true_and]
    · omega
    · split <;> omega
  have order : n ≤ x := by omega
  simp only [PositionUnit.count, net, scan, reverseFlagAtCount_eq _ _ _ _ _ order]

theorem backlash_eq {p : PositionUnit} (ahead : p.n ≤ p.x) : (p.backlash : Int) = p.x - p.n := by
  simp only [PositionUnit.backlash]
  omega

/-! ### The changes of the encoder lines -/

theorem decodeCount_forward_iff (a b c d : Bool) :
    decodeCount a b c d = some true ↔
      (a, b, c, d) ∈ [(false, false, true, false), (true, false, true, true), (true, true, false, true),
        (false, true, false, false)] := by
  cases a <;> cases b <;> cases c <;> cases d <;> decide

/-- The reverse of a forward change counts back. -/
theorem decodeCount_reverse_iff (a b c d : Bool) :
    decodeCount a b c d = some false ↔ decodeCount c d a b = some true := by
  cases a <;> cases b <;> cases c <;> cases d <;> decide

theorem encoderChange_counted {b : Block} {x y f : Bool} (ret : List Bool) (running : b.resetting = none)
    (decoded : decodeCount b.encA b.encB x y = some f) :
    encoderChange x y ret b = countOnce f ret (b.setEncoder x y) := by
  simp [encoderChange, Block.running, running, decoded]

theorem encoderChange_uncounted {b : Block} {x y : Bool} (ret : List Bool)
    (h : b.resetting ≠ none ∨ decodeCount b.encA b.encB x y = none) :
    encoderChange x y ret b = b.setEncoder x y := by
  unfold encoderChange
  dsimp only
  split
  next running =>
    have none : decodeCount b.encA b.encB x y = none := by
      rcases h with reset | skipped
      · exact absurd (by simpa [Block.running] using running) reset
      · exact skipped
    rw [none]
  next => rfl

theorem started_iff {b : Block} (running : b.resetting = none) : b.started = true ↔ b.line.state ≠ .startup := by
  simp [Block.started, Block.running, running]

section

variable {b : Block} {f crossed : Bool} {pos : PositionUnit}

/-- Whatever a count brings, position unit but for the scan slice, intake, ranks, store and time are as it counted them. -/
theorem countOnce_kept (ret : List Bool) (counted : b.pos.count f b.started b.settings.reverseLimit = pos)
    (crosses : crosses b.started b.pos.x pos.x b.settings.sliceLength = crossed) :
    (b.setPos { pos with slice := if crossed = true then pos.x / b.settings.sliceLength else pos.slice }).Kept
      (countOnce f ret b) := by
  unfold countOnce
  dsimp only
  rw [counted, crosses]
  have sliced : (b.setPos { pos with slice := if crossed = true then pos.x / b.settings.sliceLength else pos.slice }).Kept
      (if crossed = true then crossing (pos.x / b.settings.sliceLength) ret (b.setPos pos) else b.setPos pos) := by
    cases crossed with
    | true =>
      rw [if_pos rfl, if_pos rfl]
      exact crossing_kept _ ret (b.setPos pos)
    | false =>
      rw [if_neg Bool.false_ne_true, if_neg Bool.false_ne_true]
      exact .refl _
  refine sliced.trans ?_
  generalize (if crossed = true then crossing (pos.x / b.settings.sliceLength) ret (b.setPos pos) else b.setPos pos) = c
  split
  · exact lineFault_kept _ c
  · exact .refl c

/-- A count that crosses and does not fault the line is its crossing. -/
theorem countOnce_crossed (ret : List Bool) (counted : b.pos.count true b.started b.settings.reverseLimit = pos)
    (crosses : crosses b.started b.pos.x pos.x b.settings.sliceLength = true) :
    countOnce true ret b = crossing (pos.x / b.settings.sliceLength) ret (b.setPos pos) := by
  simp [countOnce, counted, crosses]

/-- The reverse limit matters to a reverse count past STARTUP in RUN and DRAINING alone (R9). -/
theorem countOnce_plain (ret : List Bool) (counted : b.pos.count f b.started b.settings.reverseLimit = pos)
    (crosses : crosses b.started b.pos.x pos.x b.settings.sliceLength = false)
    (h : (b.line.state ≠ .run ∧ b.line.state ≠ .draining) ∨ f = true ∨ pos.backlash ≤ b.settings.reverseLimit) :
    countOnce f ret b = b.setPos pos := by
  unfold countOnce
  dsimp only
  rw [counted, crosses, if_neg Bool.false_ne_true]
  split
  next beyond =>
    simp only [Bool.and_eq_true, Bool.not_eq_true', decide_eq_true_eq] at beyond
    obtain ⟨⟨reverse, _⟩, above⟩ := beyond
    rcases h with ⟨notRun, notDraining⟩ | forward | within
    · refine lineFault_not ?_
      simp only [Block.setPos_line]
      generalize b.line.state = state at notRun notDraining
      cases state <;> first | rfl | contradiction
    · simp [forward] at reverse
    · omega
  next => rfl

/-- A reverse count past the limit hands REVERSE to line control. -/
theorem countOnce_beyond (ret : List Bool) (counted : b.pos.count false b.started b.settings.reverseLimit = pos)
    (still : pos.x = b.pos.x) (started : b.started = true) (beyond : b.settings.reverseLimit < pos.backlash) :
    countOnce false ret b = lineFault .reverse (b.setPos pos) := by
  have uncrossed : crosses b.started b.pos.x pos.x b.settings.sliceLength = false := by simp [crosses, still]
  unfold countOnce
  dsimp only
  rw [counted, uncrossed, if_neg Bool.false_ne_true, if_pos (by simp [started, beyond])]

end

/-- Settles O6: the count's arithmetic, then the branches of a count. -/
theorem countMovesNetAndScan : Obligations.CountMovesNetAndScan := by
  unfold Obligations.CountMovesNetAndScan
  refine ⟨fun a b c d => ⟨decodeCount_forward_iff a b c d, decodeCount_reverse_iff a b c d⟩,
    fun _ => backlash_eq, fun s a b ret => ⟨?_, fun uncounted => ?_⟩⟩
  · intro f n x pos crossed running ahead low high decoded hn hx hpos hcrossed
    have startedIff := started_iff running
    have counted : s.pos.count f s.toBlock.started s.settings.reverseLimit = pos := by
      rw [count_eq ahead low high f _ _ hn hx, hpos]
      by_cases startup : s.line.state = .startup
      · simp [startup, startedIff]
      · simp [startup, startedIff]
    have scan : pos.x = x := by rw [hpos]
    have slice : pos.slice = s.pos.slice := by rw [hpos]
    have net : pos.n = n := by rw [hpos]
    have crosses : crosses s.toBlock.started s.pos.x pos.x s.settings.sliceLength = crossed := by
      rw [hcrossed, scan, Bool.eq_iff_iff]
      simp only [Machine.crosses, Bool.and_eq_true, startedIff, decide_eq_true_eq, beq_iff_eq]
      constructor
      · rintro ⟨⟨past, gained⟩, multiple⟩
        have forward : f = true ∧ s.pos.n = s.pos.x := by
          by_contra other
          rw [if_neg other] at hx
          omega
        exact ⟨past, forward.1, forward.2, multiple⟩
      · rintro ⟨past, forward, level, multiple⟩
        rw [if_pos ⟨forward, level⟩] at hx
        exact ⟨⟨past, by omega⟩, multiple⟩
    have run : exec (.encoderCount a b ret) s = event s fun _ => countOnce f ret (s.toBlock.setEncoder a b) := by
      rw [event_next, ← encoderChange_counted ret running decoded]
      rfl
    have kept := countOnce_kept (b := s.toBlock.setEncoder a b) ret counted crosses
    have crossedOut (yes : crossed = true) : countOnce f ret (s.toBlock.setEncoder a b) =
        crossing (x / s.settings.sliceLength) ret ((s.toBlock.setEncoder a b).setPos pos) := by
      have forward : f = true := by
        rw [yes] at hcrossed
        exact (of_decide_eq_true hcrossed.symm).2.1
      subst forward yes
      rw [countOnce_crossed (b := s.toBlock.setEncoder a b) ret counted crosses, scan]
      rfl
    have plainOut (no : crossed = false) (within : (s.line.state ≠ .run ∧ s.line.state ≠ .draining) ∨ f = true ∨
        (x : Int) - n ≤ s.settings.reverseLimit) :
        countOnce f ret (s.toBlock.setEncoder a b) = (s.toBlock.setEncoder a b).setPos pos := by
      refine countOnce_plain (b := s.toBlock.setEncoder a b) ret counted (no ▸ crosses)
        (within.imp_right (Or.imp_right fun few => ?_))
      simp only [PositionUnit.backlash, scan, net, Block.setEncoder]
      omega
    generalize countOnce f ret (s.toBlock.setEncoder a b) = after at run kept crossedOut plainOut
    refine ⟨_, run.trans (event_next _ _), kept.encA, kept.encB, ?_, kept.intake, kept.ranks, kept.store, kept.clock,
      fun yes out hout => ?_, fun no quiet => ?_⟩
    · rw [← scan, ← slice]
      exact kept.pos
    · have same : after = out := (crossedOut yes).trans hout.symm
      have time : startSending out.clock out.msg = startSending s.clock out.msg := by
        rw [← same, kept.clock]
        rfl
      rw [same, ← time]
      rfl
    · rw [plainOut no quiet]
      rfl
  · have still := encoderChange_uncounted (b := s.toBlock) ret uncounted
    show event s (encoderChange a b ret) = _
    rw [event_next, still]
    rfl

/-- An event that hands a taken fault to line control, in a block that differs from the state before in neither stations,
table, settings, sequencer nor line: the stop of the line, what it queues, and what it leaves. -/
theorem lineFault_event {s : State} {f : FaultCause} {c : Block} {i : Instr}
    (run : exec i s = event s fun _ => lineFault f c) (shaped : s.toBlock.Shaped)
    (taken : faultTaken f s.line.state = true) (stations : c.stations = s.stations) (track : c.track = s.track)
    (settings : c.settings = s.settings) (maint : c.maint = s.maint) (line : c.line = s.line) :
    ∃ t, exec i s = .next t ∧ t.line = { s.line with state := .fault, fault := f } ∧ t.pos = c.pos ∧
      LineStopped s.toBlock t ∧
      t.msg = startSending c.clock
        (offerAll (s.toBlock.stopReports .fault ++ [.lineNotice s.line.state .fault f.lineCause f]) c.msg) ∧
      t.intake = c.intake ∧ t.ranks = c.ranks ∧ t.chain = c.chain ∧ t.store = c.store := by
  have enable (st : StationId) := shaped.quiet st
  have taken' : faultTaken f c.line.state = true := by rwa [line]
  have stop (m : MessageUnit) := lineFault_stopped taken' enable stations track settings maint s m
  obtain ⟨hline, _, _, hpos, hintake, hranks, hchain, hstore, hclock⟩ :=
    lineFault_spec f c taken' (by rw [stations]; exact enable)
  have queued := (stop s.msg).2
  rw [line] at hline queued
  refine ⟨_, run.trans (event_next _ _), hline, hpos, (stop _).1, ?_, hintake, hranks, hchain, hstore⟩
  rw [← queued, ← hclock]
  rfl

/-- Settles O7: the count past the limit, and what a taken line fault does. -/
theorem reverseBeyondTheLimitFaultsTheLine : Obligations.ReverseBeyondTheLimitFaultsTheLine := by
  unfold Obligations.ReverseBeyondTheLimitFaultsTheLine
  intro s a b ret shaped running moving low decoded beyond
  obtain ⟨past, taken⟩ : s.line.state ≠ .startup ∧ faultTaken .reverse s.line.state = true := by
    rcases moving with h | h <;> simp [h, faultTaken]
  have startedYes : s.toBlock.started = true := (started_iff running).mpr past
  have lower := netAfter_reverse_le low
  have ahead := shaped.backlash
  have still : (s.pos.count false s.toBlock.started s.settings.reverseLimit).x = s.pos.x := by
    simp only [PositionUnit.count]
    omega
  have exceeds : s.settings.reverseLimit < (s.pos.count false s.toBlock.started s.settings.reverseLimit).backlash := by
    simp only [PositionUnit.count, PositionUnit.backlash]
    omega
  have flag : (s.pos.count false s.toBlock.started s.settings.reverseLimit).reverseFlag = true := by
    simp only [PositionUnit.count, PositionUnit.backlash] at exceeds ⊢
    rw [if_pos startedYes, reverseFlagAtCount, if_neg (by omega), if_pos (by simpa using exceeds)]
  have run : exec (.encoderCount a b ret) s = event s fun _ => lineFault .reverse
      ((s.toBlock.setEncoder a b).setPos (s.pos.count false s.toBlock.started s.settings.reverseLimit)) := by
    have beyondLimit := countOnce_beyond (b := s.toBlock.setEncoder a b)
      (pos := s.pos.count false s.toBlock.started s.settings.reverseLimit) ret rfl still startedYes exceeds
    rw [event_next, ← beyondLimit, ← encoderChange_counted ret running decoded]
    rfl
  obtain ⟨t, next, line, pos, rest⟩ := lineFault_event run shaped taken rfl rfl rfl rfl rfl
  exact ⟨t, next, line, by rw [pos]; exact flag, rest⟩

/-! ### The speed gate -/

theorem faultTaken_moving {f : FaultCause} {l : LineState} (h : f = .overspeed ∨ f = .reverse) :
    faultTaken f l = true ↔ l = .run ∨ l = .draining := by
  rcases h with rfl | rfl <;> cases l <;> simp [faultTaken]

/-- Settles O8: V as the gate measures it, and the overspeed fault where it is taken. -/
theorem gateExpiryMeasuresSpeed : Obligations.GateExpiryMeasuresSpeed := by
  unfold Obligations.GateExpiryMeasuresSpeed
  intro s shaped running passed
  have due : (s.toBlock.running && s.toBlock.reached s.pos.gateStart Config.gatePeriod) = true := by
    simpa [Block.running, running, reached_iff, Config.gatePeriod] using passed
  have startedIff := started_iff running
  set v := speedOf (s.pos.n - s.pos.gateNet) with hv
  set pos : PositionUnit := { s.pos with
    v := v
    gateStart := s.clock
    gateNet := s.pos.n
    overspeed := if s.toBlock.started then overspeedAt v s.settings.sliceLength else s.pos.overspeed } with hpos
  have gated : gateExpiry s.toBlock =
      if s.toBlock.started && overspeedAt v s.settings.sliceLength then lineFault .overspeed (s.toBlock.setPos pos)
      else s.toBlock.setPos pos := rfl
  have posEq : pos = { s.pos with
      v := v
      gateStart := s.clock
      gateNet := s.pos.n
      overspeed :=
        if s.line.state = .startup then s.pos.overspeed else decide (205 * s.settings.sliceLength ≤ v) } := by
    rw [hpos]
    by_cases startup : s.line.state = .startup <;> simp [startup, startedIff, overspeedAt]
  by_cases fast : faultTaken .overspeed s.line.state = true ∧ 205 * s.settings.sliceLength ≤ v
  · obtain ⟨taken, above⟩ := fast
    have past : s.line.state ≠ .startup := by
      intro startup
      rw [startup] at taken
      exact absurd taken (by decide)
    have run : exec .speedGateExpiry s = event s fun _ => lineFault .overspeed (s.toBlock.setPos pos) := by
      show eventIf _ s gateExpiry = _
      rw [eventIf_due due, event_next, gated, if_pos (by simp [startedIff.mpr past, overspeedAt, above])]
      rfl
    obtain ⟨t, next, line, posT, stopped, msg, intake, ranks, chain, store⟩ :=
      lineFault_event run shaped taken rfl rfl rfl rfl rfl
    refine ⟨t, next, fun w hw => ?_⟩
    obtain rfl : w = v := hw
    refine ⟨posT.trans posEq, fun _ _ => ⟨line, stopped, msg, intake, ranks, chain, store⟩, fun slow => ?_⟩
    have moving := (faultTaken_moving (.inl rfl)).mp taken
    rcases slow with ⟨notRun, notDraining⟩ | below
    · exact absurd moving (by simp [notRun, notDraining])
    · omega
  · have still : gateExpiry s.toBlock = s.toBlock.setPos pos := by
      rw [gated]
      split
      next set =>
        simp only [Bool.and_eq_true, overspeedAt, decide_eq_true_eq] at set
        exact lineFault_not (by simpa using fun taken => fast ⟨taken, set.2⟩)
      next => rfl
    have next : exec .speedGateExpiry s = .next { s with pos := pos, msg := s.settledMsg } := by
      show eventIf _ s gateExpiry = _
      rw [eventIf_due due, event_next, still]
      rfl
    refine ⟨_, next, fun w hw => ?_⟩
    obtain rfl : w = v := hw
    refine ⟨posEq, fun moving above => absurd ⟨(faultTaken_moving (.inl rfl)).mpr moving, above⟩ fast, fun _ => rfl⟩

/-! ### The beacon -/

theorem beaconFrame_eq (x v : Nat) (line : LineState) :
    beaconFrame x v line = 0xD3#8 :: 9#8 :: (le 6 x ++ le 2 v ++ byte line.code) ++
      crcBytes (9#8 :: (le 6 x ++ le 2 v ++ byte line.code)) := rfl

/-- Settles O9: the beacon's effect, and its content field by field. -/
theorem beaconCarriesScanSpeedAndState : Obligations.BeaconCarriesScanSpeedAndState := by
  unfold Obligations.BeaconCarriesScanSpeedAndState
  refine ⟨fun s start running timer passed => ?_, fun x v line => ⟨_, ?_, ?_, beaconFrame_eq x v line⟩⟩
  · have due : beaconDue s.toBlock = true := by
      simpa [beaconDue, Block.running, running, timer, reached_iff, Config.beaconPeriod] using passed
    exact eventIf_due due s sendBeacon
  · simp
  · simp only [carries_cons, carries_nil, and_true, List.append_assoc]
    refine ⟨field_le_here 6 x _, fun fits => ?_, fun fits => ?_⟩
    · rw [field_le_skip 6 x _ _ _ (by omega)]
      exact field_le_here 2 v _ fits
    · rw [field_le_skip 6 x _ _ _ (by omega), field_le_skip 2 v _ _ _ (by omega)]
      exact field_le 1 _ fits

end Sys2Proof.Machine
end

section
/-! PROOFS. The slice crossing (R38 to R44, R76, R100, R101, R137): ends, starts, due commits, retirement, and the end of a
drain. -/

namespace Sys2Proof.Machine

/-! ### The parts of a crossing -/

theorem dueAtCrossing_eq (st : StationId) (c : Nat) (r : ParticleRecord) :
    dueAtCrossing st c r = (r.slots.get st).any fun sl => sl.state = .waiting ∧ sl.commitSlice = (c : Int) := by
  unfold dueAtCrossing
  cases r.slots.get st with
  | none => rfl
  | some sl =>
    rw [Bool.eq_iff_iff]
    simp

/-- One scheduler's work in the order of R76. -/
theorem schedulerAtCrossing_eq (c : Nat) (b : Block) (st : StationId) :
    schedulerAtCrossing c b st =
      let started := startAtCrossing st c (endAtCrossing st c b)
      ((started.track.table.filter fun r =>
          (r.slots.get st).any fun sl => sl.state = .waiting ∧ sl.commitSlice = (c : Int)).map
        (·.tag)).foldl (fun a tag => commitAt st tag a) started := by
  have due : dueAtCrossing st c =
      fun r => (r.slots.get st).any fun sl => decide (sl.state = .waiting ∧ sl.commitSlice = (c : Int)) :=
    funext (dueAtCrossing_eq st c)
  unfold schedulerAtCrossing
  dsimp only
  rw [due]

theorem retireFinished_eq (b : Block) :
    retireFinished b =
      { b with
        track :=
          { table := b.track.table.filter fun r => !r.finished
            outcomes := (b.track.table.filter (·.finished)).foldl countOutcomes b.track.outcomes }
        msg := offerAll (resultsOf (b.track.table.filter (·.finished))) b.msg } := by
  rw [← reportRetired_all]
  rfl

theorem drainDone_eq {b : Block} (draining : b.line.state = .draining) (empty : b.track.table = []) :
    drainDone b =
      { b with
        line := { b.line with state := .standby }
        msg := offerReport (.lineNotice .draining .standby .drainDone .none) b.msg } := by
  rw [drainDone, if_pos ⟨draining, empty⟩, enterLine, draining]
  rfl

theorem isFinal_iff (x : SlotState) : x.isFinal = true ↔ ∃ o, x = .final o := by
  cases x <;> simp [SlotState.isFinal]

theorem isActive_iff (x : EntryState) : x.isActive = true ↔ ∃ start confirmed, x = .active start confirmed := by
  cases x <;> simp [EntryState.isActive]

theorem isActive_false_iff (x : EntryState) : x.isActive = false ↔ x = .committed := by
  cases x <;> simp [EntryState.isActive]

/-! ### What a retiring record counts and says (R43 to R45) -/

theorem modifyAt_eq_modify {α : Type} (f : α → α) (i : Nat) (l : List α) : modifyAt f i l = l.modify i f := by
  induction l generalizing i with
  | nil => cases i <;> rfl
  | cons a l ih =>
    cases i with
    | zero => rfl
    | succ i => simp [modifyAt, ih]

theorem bump_eq (n : Nat) : bump n = if n < 4294967295 then n + 1 else n := rfl

theorem bump_eq_fun : bump = fun n => if n < 4294967295 then n + 1 else n := rfl

theorem result_final {sl : Slot} {o : SlotOutcome} (h : sl.state = .final o) : sl.result = some (o, sl.flags) := by
  simp [Slot.result, h]

/-- The count of one slot of a retiring record. -/
def countSlot (r : ParticleRecord) (acc : Four (List Nat)) (st : StationId) : Four (List Nat) :=
  ((r.slots.get st).bind Slot.result).elim acc fun x => acc.set st (modifyAt bump x.1.code (acc.get st))

theorem countOutcomes_eq (tallies : Four (List Nat)) (r : ParticleRecord) :
    countOutcomes tallies r = allStations.foldl (countSlot r) tallies := by
  unfold countOutcomes
  congr 1
  funext acc st
  unfold countSlot
  cases (r.slots.get st).bind Slot.result <;> rfl

theorem countSlot_get (r : ParticleRecord) (acc : Four (List Nat)) (i st : StationId) :
    (countSlot r acc i).get st =
      if st = i then
        ((r.slots.get i).bind Slot.result).elim (acc.get i) fun x => modifyAt bump x.1.code (acc.get i)
      else acc.get st := by
  unfold countSlot
  cases (r.slots.get i).bind Slot.result with
  | none =>
    split
    next same => rw [same]; rfl
    next => rfl
  | some x => simp

/-- A station's tallies take what its own slot says. -/
theorem countOutcomes_get (tallies : Four (List Nat)) (r : ParticleRecord) (st : StationId) :
    (countOutcomes tallies r).get st =
      ((r.slots.get st).bind Slot.result).elim (tallies.get st) fun x => modifyAt bump x.1.code (tallies.get st) := by
  rw [countOutcomes_eq]
  fin_cases st <;> simp [allStations, countSlot_get]

/-! ### Slots that lose an entry, or start (R38, R39) -/

theorem loseEntry_idle {action : Action} {completed anyActive : Bool} {mark : SlotFlags → SlotFlags} {sl : Slot}
    (h : sl.state = .waiting ∨ sl.state.isFinal = true) : sl.loseEntry action completed anyActive mark = sl := by
  unfold Slot.loseEntry
  rcases h with waiting | final
  · rw [waiting]
  · obtain ⟨o, e⟩ := (isFinal_iff _).mp final
    rw [e]

theorem loseEntry_listed {action : Action} {completed anyActive : Bool} {mark : SlotFlags → SlotFlags} {sl : Slot}
    {g : Figures} {done : Nat} (state : sl.state = .committed ∨ sl.state = .active) (figures : sl.figures = some g)
    (hd : done = if completed = true then g.completions + 1 else g.completions) :
    sl.loseEntry action completed anyActive mark =
      { sl with
        state :=
          if g.entries ≤ 1 then
            .final (if done = 0 then .channelFault else if action = .eject then .ejected else .shielded)
          else if anyActive = true then .active else .committed
        figures := some { g with entries := g.entries - 1, completions := done }
        flags := mark sl.flags } := by
  have last : g.entries - 1 = 0 ↔ g.entries ≤ 1 := by omega
  have outcome : (match action with
      | .eject => SlotOutcome.ejected
      | .shield => .shielded) = if action = .eject then .ejected else .shielded := by
    cases action <;> rfl
  unfold Slot.loseEntry
  rcases state with e | e <;> rw [e, figures] <;> subst hd <;> simp only [last, ← outcome] <;> rfl

/-! ### The crossing's ends and starts -/

theorem same_iff (e f : Entry) : e.same f = true ↔ e.channel = f.channel ∧ e.onSlice = f.onSlice := by
  simp [Entry.same]

theorem startsAt_iff (c : Nat) (e : Entry) : e.startsAt c = true ↔ e.onSlice = c ∧ e.state = .committed := by
  simp [Entry.startsAt, isActive_false_iff]

theorem endAtCrossing_eq (st : StationId) (c : Nat) (b : Block) :
    endAtCrossing st c b = ((b.lists.get st).filter fun e => e.offSlice = c).foldl (endEntry st true id) b := rfl

theorem tagActive_eq (l : List Entry) (tag : Nat) :
    tagActive l tag = decide (∃ f ∈ l, f.state.isActive = true ∧ tag ∈ f.tags) := by
  rw [Bool.eq_iff_iff]
  simp [tagActive, Entry.carries]

theorem started_eq (sl : Slot) : sl.started = if sl.state = .committed then { sl with state := .active } else sl := by
  rcases sl with ⟨_ | _ | _ | _, _, _, _⟩ <;> rfl

theorem startConfirm_eq (now : Nat) (ch : Channel) :
    ch.startConfirm now = if ch.confirm = none then { ch with confirm := some now } else ch := by
  rcases ch with ⟨_, _ | _, _, _⟩ <;> rfl

/-- The starts of a crossing in one piece (R101). -/
theorem startAtCrossing_eq (st : StationId) (c : Nat) (b : Block) :
    startAtCrossing st c b =
      { b with
        lists :=
          b.lists.set st
            ((b.lists.get st).map fun e =>
              if e.onSlice = c ∧ e.state = .committed then { e with state := .active b.clock false } else e)
        track :=
          { b.track with
            table :=
              b.track.table.map fun r =>
                if ∃ e ∈ b.lists.get st, e.onSlice = c ∧ e.state = .committed ∧ r.tag ∈ e.tags then
                  r.updateSlot st fun sl => if sl.state = .committed then { sl with state := .active } else sl
                else r }
        stations :=
          b.stations.set st
            { b.stations.get st with
              channels :=
                (b.stations.get st).channels.mapIdx fun i ch =>
                  if (∃ e ∈ b.lists.get st, e.onSlice = c ∧ e.state = .committed ∧ e.kind = .eject ∧ e.channel = i) ∧
                      ch.confirm = none then
                    { ch with confirm := some b.clock }
                  else ch } } := by
  have started : (fun sl : Slot => if sl.state = .committed then { sl with state := .active } else sl) = Slot.started :=
    funext fun sl => (started_eq sl).symm
  have starting (p : Entry → Prop) : (∃ e ∈ (b.lists.get st).filter (Entry.startsAt c), p e) ↔
      ∃ e ∈ b.lists.get st, e.onSlice = c ∧ e.state = .committed ∧ p e := by
    simp only [List.mem_filter, startsAt_iff, and_assoc]
  unfold startAtCrossing
  dsimp only
  rw [foldl_followStart, started]
  simp only [starting, startsAt_iff, startConfirm_eq, ite_and, Block.setList, Block.setLists]

/-- After the ends and starts of a crossing no entry of the list has off slice c, and each with on slice c is ACTIVE. -/
theorem lists_after_starts {st : StationId} {c : Nat} {b : Block} {e : Entry}
    (h : e ∈ (startAtCrossing st c (endAtCrossing st c b)).lists.get st) :
    e.offSlice ≠ c ∧ (e.onSlice = c → e.state.isActive = true) := by
  have stays {f : Entry} (k : f ∈ (endAtCrossing st c b).lists.get st) : f.offSlice ≠ c := by
    rw [endAtCrossing_eq, foldl_endEntry_lists, Four.get_set, if_pos rfl] at k
    simp only [List.mem_filter, decide_eq_true_eq] at k
    obtain ⟨listed, apart⟩ := k
    intro ends
    rcases apart f ⟨listed, ends⟩ with other | other <;> exact other rfl
  rw [startAtCrossing_eq] at h
  simp only [Four.get_set, if_true, List.mem_map] at h
  obtain ⟨f, listed, rfl⟩ := h
  split
  next starts => exact ⟨stays (f := f) listed, fun _ => rfl⟩
  next idle =>
    refine ⟨stays listed, fun on => ?_⟩
    by_contra notActive
    exact idle ⟨on, (isActive_false_iff _).mp (by simpa using notActive)⟩

theorem stationLeft_eq (sl : Slot) :
    sl.stationLeft =
      if sl.state = .committed then sl.ended .masked else if sl.state = .active then sl.ended .aborted else sl := by
  rcases sl with ⟨_ | _ | _ | _, _, _, _⟩ <;> rfl

/-- Settles O10: each part of a crossing by the lemma that says what it does. -/
theorem crossingEndsAndStartsEntries : Obligations.CrossingEndsAndStartsEntries := by
  unfold Obligations.CrossingEndsAndStartsEntries
  refine ⟨fun b c ret => ?_, fun b gone hgone => ?_, fun b => ⟨drainDone_eq, drainDone_not⟩, fun _ _ _ => rfl,
    isFinal_iff, isActive_iff, fun r => ⟨r.finished_iff, ?_⟩, fun sl final hfinal => ?_, fun b st c ending hending => ?_,
    fun b st completed mark e l hl => ?_, fun action completed anyActive mark sl => ⟨loseEntry_idle, ?_⟩,
    fun b st c l hl => ?_, fun b st c e => lists_after_starts⟩
  · have order : schedulerAtCrossing c = _ := funext fun acc => funext fun st => schedulerAtCrossing_eq c acc st
    unfold crossing
    rw [order]
    rfl
  · subst hgone
    exact retireFinished_eq b
  · refine ⟨_, rfl, fun st => ⟨fun absent => ⟨by simp [absent], fun tallies => ?_⟩,
      fun sl o present final => ⟨by simp [present, result_final final], fun tallies => ?_⟩⟩⟩
    · rw [countOutcomes_get, absent]
      rfl
    · rw [countOutcomes_get, present, ← bump_eq_fun, ← modifyAt_eq_modify]
      simp [result_final final]
  · obtain rfl : final = fun o => sl.ended o := funext hfinal
    exact ⟨fun _ => rfl, stationLeft_eq sl, rfl⟩
  · subst hending
    refine ⟨rfl, ?_⟩
    rw [endAtCrossing_eq, foldl_endEntry_lists]
  · subst hl
    have list : ((b.lists.get st).filter fun f => f.channel ≠ e.channel ∨ f.onSlice ≠ e.onSlice) =
        (b.lists.get st).filter fun f => !f.same e := by
      refine List.filter_congr fun f _ => ?_
      rw [Bool.eq_iff_iff]
      simp only [decide_eq_true_eq, Bool.not_eq_true', ← Bool.not_eq_true, same_iff]
      tauto
    rw [endEntry_eq st completed mark b e list]
    simp only [tagActive_eq]
  · exact fun g done state figures hd => loseEntry_listed state figures hd
  · subst hl
    exact startAtCrossing_eq st c b

end Sys2Proof.Machine
end

section
/-! PROOFS. The detection link (R17 to R22): bytes that are sought, collected, queued and discarded. -/

namespace Sys2Proof.Machine

/-! ### The receiver's cases -/

theorem detectionLengthOk_iff (n : Nat) : detectionLengthOk n = true ↔ n ∈ [10, 20, 30, 40, 50, 60, 70, 80] := by
  simp only [detectionLengthOk, Bool.and_eq_true, beq_iff_eq, decide_eq_true_eq, List.mem_cons, List.not_mem_nil,
    or_false]
  omega

theorem field_head (v : Byte) (l : List Byte) : field (v :: l) 0 1 = v.toNat := by simp [field, leValue]

theorem late_inFrame_iff {bytes : List Byte} {last gap now : Nat} :
    (Receiver.inFrame bytes last).late gap now = true ↔ last + gap < now := decide_eq_true_iff

section

variable {now last : Nat} {v : Byte} {bytes : List Byte} {u : IntakeUnit}

theorem examineDetection_seeking (h : u.receiver = .seeking) :
    examineDetection now v u = if v = startByte then { u with receiver := .inFrame [] now } else u := by
  simp [examineDetection, h, Receiver.late]

theorem examineDetection_inFrame (h : u.receiver = .inFrame bytes last) (intime : now ≤ last + 200) :
    examineDetection now v u = detectionInFrame now (bytes ++ [v]) u := by
  have timely : ¬ u.receiver.late Config.detectionGap now = true := by
    rw [h, late_inFrame_iff]
    simp only [Config.detectionGap]
    omega
  unfold examineDetection
  dsimp only
  rw [if_neg timely, h]

/-- A length byte that is not one to eight whole records discards the frame (R18). -/
theorem detectionInFrame_badLength {rest : List Byte} (h : v.toNat ∉ [10, 20, 30, 40, 50, 60, 70, 80]) :
    detectionInFrame now (v :: rest) u = discardDetection u := by
  unfold detectionInFrame
  rw [field_head, if_pos]
  rw [Bool.not_eq_true', ← Bool.not_eq_true, detectionLengthOk_iff]
  exact h

section

variable {len : Byte} (good : len.toNat ∈ [10, 20, 30, 40, 50, 60, 70, 80])

include good

/-- Behind a good length byte a byte before the last check byte is collected (R17). -/
theorem detectionInFrame_collect {rest : List Byte} (few : rest.length ≤ len.toNat + 1) :
    detectionInFrame now (len :: rest) u = { u with receiver := .inFrame (len :: rest) now } := by
  unfold detectionInFrame
  rw [field_head, if_neg, if_pos]
  · simp only [List.length_cons]
    omega
  · simp [(detectionLengthOk_iff _).mpr good]

/-- The last check byte completes the frame, which is good where the check value agrees (R18, R19). -/
theorem detectionInFrame_complete {low high : Byte} {body : List Byte} (size : body.length = len.toNat) :
    detectionInFrame now (len :: body ++ [low] ++ [high]) u =
      if crcBytes (len :: body) = [low, high] then acceptDetection (detectionRecords body) u else discardDetection u := by
  have front : len :: body ++ [low] ++ [high] = (len :: body) ++ [low, high] := by simp
  have whole : (len :: body).length = len.toNat + 1 := by simp [size]
  have covered : (len :: body ++ [low] ++ [high]).take (len.toNat + 1) = len :: body := by
    rw [front, ← whole, List.take_left]
  have check : (len :: body ++ [low] ++ [high]).drop (len.toNat + 1) = [low, high] := by
    rw [front, ← whole, List.drop_left]
  have first : field (len :: body ++ [low] ++ [high]) 0 1 = len.toNat := field_head _ _
  unfold detectionInFrame
  dsimp only
  rw [first, covered, check, if_neg, if_neg]
  · rfl
  · simp [size]
  · simp [(detectionLengthOk_iff _).mpr good]

end

end

theorem exec_detectionByte {s : State} {v : Byte} {u : IntakeUnit} (running : s.resetting = none)
    (past : s.line.state ≠ .startup) (h : examineDetection s.clock v s.intake = u) :
    exec (.detectionByte v) s = .next { s with intake := u, msg := s.settledMsg } := by
  show eventIf _ s _ = _
  rw [eventIf_due ((started_iff running).mpr past), event_next, h]
  rfl

theorem started_false {b : Block} (h : b.resetting ≠ none ∨ b.line.state = .startup) : b.started = false := by
  rcases h with reset | startup
  · simp [Block.started, Block.running, Option.isNone_iff_eq_none.not.mpr reset]
  · simp [Block.started, startup]

/-- Settles O11: the receiver's cases without a last check byte. -/
theorem detectionReceiverSeeksTheStartByte : Obligations.DetectionReceiverSeeksTheStartByte := by
  unfold Obligations.DetectionReceiverSeeksTheStartByte
  intro s v
  refine ⟨fun running past seeking => ?_, fun bytes rest last len running past inFrame intime split good few => ?_,
    fun held => eventIf_undue (started_false held) s _⟩
  · exact exec_detectionByte running past (examineDetection_seeking seeking)
  · refine exec_detectionByte running past ?_
    rw [examineDetection_inFrame inFrame intime, split]
    exact detectionInFrame_collect good few

/-! ### A good frame's records -/

theorem entriesOf_length (size : Nat) (l : List Byte) : (entriesOf size l).length = l.length / size := by
  simp [entriesOf]

/-- Records offered one after another: those within 64 join the queue in order, all are counted (R19, R21). -/
theorem foldl_offerRecord (rs : List DetectionRecord) {u : IntakeUnit} (queue : u.queue.length ≤ 64)
    (received : u.tallies.received + rs.length ≤ 4294967295) (full : u.tallies.queueFull + rs.length ≤ 4294967295) :
    rs.foldl offerRecord u =
      { u with
        queue := (u.queue ++ rs).take 64
        tallies :=
          { u.tallies with
            received := u.tallies.received + rs.length
            queueFull := u.tallies.queueFull + (u.queue.length + rs.length - 64) } } := by
  induction rs generalizing u with
  | nil =>
    have none : u.queue.length - 64 = 0 := by omega
    simp [List.take_of_length_le queue, none]
  | cons r rs ih =>
    simp only [List.length_cons] at received full
    have counted : bump u.tallies.received = u.tallies.received + 1 := if_pos (by simp only [Config.tallyMax]; omega)
    by_cases room : u.queue.length < 64
    · have offered : offerRecord u r =
          { u with queue := u.queue ++ [r], tallies := { u.tallies with received := u.tallies.received + 1 } } := by
        simp [offerRecord, Config.intakeCapacity, room, counted]
      rw [List.foldl_cons, offered, ih (by simp; omega) (by simp; omega) (by simp; omega)]
      have received : u.tallies.received + 1 + rs.length = u.tallies.received + (rs.length + 1) := by omega
      have beyond : u.queue.length + 1 + rs.length - 64 = u.queue.length + (rs.length + 1) - 64 := by omega
      simp [received, beyond]
    · have dropped : bump u.tallies.queueFull = u.tallies.queueFull + 1 := if_pos (by simp only [Config.tallyMax]; omega)
      have offered : offerRecord u r =
          { u with
            tallies := { u.tallies with
              received := u.tallies.received + 1, queueFull := u.tallies.queueFull + 1 } } := by
        simp [offerRecord, Config.intakeCapacity, room, counted, dropped]
      rw [List.foldl_cons, offered, ih (by exact queue) (by simp; omega) (by simp; omega)]
      have received : u.tallies.received + 1 + rs.length = u.tallies.received + (rs.length + 1) := by omega
      have beyond : u.tallies.queueFull + 1 + (u.queue.length + rs.length - 64) =
          u.tallies.queueFull + (u.queue.length + (rs.length + 1) - 64) := by omega
      have whole : u.queue.length = 64 := by omega
      have kept (l : List DetectionRecord) : (u.queue ++ l).take 64 = u.queue := by rw [← whole, List.take_left]
      simp [received, beyond, kept]

theorem field_slice (l : List Byte) (skip size start width : Nat) (inside : start + width ≤ size) :
    field ((l.drop skip).take size) start width = field l (skip + start) width := by
  unfold field
  rw [List.drop_take, List.take_take, List.drop_drop, Nat.min_eq_left (by omega)]

/-- Settles O12: the complete frame's records by the fold of their offers, and a record's layout by its fields. -/
theorem goodDetectionFrameIsQueued : Obligations.GoodDetectionFrameIsQueued := by
  unfold Obligations.GoodDetectionFrameIsQueued
  refine ⟨fun s len low high body last running past queue inFrame intime size good check received full => ?_,
    fun body => ?_⟩
  · have complete : examineDetection s.clock high s.intake = acceptDetection (detectionRecords body) s.intake := by
      rw [examineDetection_inFrame inFrame intime, detectionInFrame_complete good size, if_pos check]
    have count : (detectionRecords body).length = len.toNat / 10 := by
      rw [detectionRecords, List.length_map, entriesOf_length, size]
    have few : len.toNat / 10 ≤ 8 := by
      simp only [List.mem_cons, List.not_mem_nil, or_false] at good
      omega
    have offered := foldl_offerRecord (detectionRecords body) (u := { s.intake with receiver := .seeking }) queue
      (by rw [count]; simp only; omega) (by rw [count]; simp only; omega)
    refine ⟨_, exec_detectionByte running past complete, ?_⟩
    unfold acceptDetection
    dsimp only
    rw [offered, count]
    exact ⟨rfl, rfl, rfl, rfl, rfl⟩
  · simp only [entriesOf, List.map_map]
    refine List.map_congr_left fun i _ => ?_
    have at10 (start width : Nat) (inside : start + width ≤ 10) :
        field ((body.drop (i * 10)).take 10) start width = field body (10 * i + start) width := by
      rw [field_slice _ _ _ _ _ inside, Nat.mul_comm]
    simp [detectionOf, bitsAt, at10]

/-- Settles O13: the gap timeout, the bad length byte and the differing check value. -/
theorem badDetectionFrameIsDiscarded : Obligations.BadDetectionFrameIsDiscarded := by
  unfold Obligations.BadDetectionFrameIsDiscarded
  intro s bytes last running past inFrame
  refine ⟨fun late => ?_, fun v intime bad => ?_⟩
  · have due : (s.toBlock.started && s.intake.receiver.late Config.detectionGap s.clock) = true := by
      simp [(started_iff running).mpr past, inFrame, late_inFrame_iff, Config.detectionGap, late]
    exact eventIf_due due s _
  · refine exec_detectionByte running past (u := discardDetection s.intake) ?_
    rw [examineDetection_inFrame inFrame intime]
    rcases bad with ⟨rfl, badLength⟩ | ⟨len, low, body, rfl, size, good, differs⟩
    · exact detectionInFrame_badLength badLength
    · rw [detectionInFrame_complete good size, if_neg differs]

end Sys2Proof.Machine
end

section
/-! PROOFS. The take (R23 to R36, R75): the disposition, an admission with the commits already due, and the rebuilt
position. -/

namespace Sys2Proof.Machine

/-- An event whose effect leaves the time base is that effect with the transmitter settled at the present time. -/
theorem event_out {s : State} {f : Block → Block} {out : Block} (h : f s.toBlock = out) (time : out.clock = s.clock) :
    event s f = .next { s with toBlock := { out with msg := startSending s.clock out.msg } } := by
  rw [event_next, h, ← time]
  rfl

/-! ### The rebuilt position (R26) -/

/-- Settles O16: the two branches of R26's working, and linear arithmetic. -/
theorem rebuiltPositionIsTheOneInTheWindow : Obligations.RebuiltPositionIsTheOneInTheWindow := by
  unfold Obligations.RebuiltPositionIsTheOneInTheWindow
  intro x stamp p small
  have below (h : stamp ≤ x % 16777216) : rebuild x stamp = (x : Int) - (x % 16777216 : Nat) + stamp := if_pos h
  have above (h : x % 16777216 < stamp) : rebuild x stamp = (x : Int) - (x % 16777216 : Nat) + stamp - 16777216 :=
    if_neg (by omega)
  refine ⟨?_, below, above, fun level => ?_⟩
  · rcases Nat.lt_or_ge (x % 16777216) stamp with h | h
    · rw [above h]
      omega
    · rw [below h]
      omega
  · rw [below (by omega)]
    omega

/-! ### The disposition -/

theorem stations_eq_none_iff (f : Four Bool) : f = Four.all4 false ↔ ∀ st, f.get st = false :=
  ⟨fun h st => by rw [h, Four.get_all4], fun h => Four.ext_get fun st => by rw [h, Four.get_all4]⟩

theorem findRecord_isSome_iff (tag : Nat) (t : List ParticleRecord) :
    (findRecord tag t).isSome = true ↔ ∃ q ∈ t, q.tag = tag := by
  simp [findRecord]

/-- The first disposition that applies, in the order of R24 to R31. -/
theorem dispositionOf_eq (b : Block) (r : DetectionRecord) :
    dispositionOf b r =
      if b.line.state ≠ .run then .notRunning
      else if r.length = 0 ∨ r.lastLane < r.firstLane then .invalid
      else if rebuild b.pos.x r.stamp < 0 ∨ (b.settings.staleLimit : Int) < b.pos.x - rebuild b.pos.x r.stamp then
        .stale
      else if (b.route r.cls).hold = true then .held
      else if ∀ st, (b.route r.cls).stations.get st = false then .passed
      else if r.confidence < (b.route r.cls).minConfidence then .unsure
      else if ∃ q ∈ b.track.table, q.tag = r.tag then .duplicate
      else if b.settings.partition.trackCapacity ≤ b.track.table.length then .tableFull
      else .admitted := by
  have invalid : r.invalid = true ↔ r.length = 0 ∨ r.lastLane < r.firstLane := by simp [DetectionRecord.invalid]
  have stale : isStale b.pos.x b.settings.staleLimit (rebuild b.pos.x r.stamp) = true ↔
      rebuild b.pos.x r.stamp < 0 ∨ (b.settings.staleLimit : Int) < b.pos.x - rebuild b.pos.x r.stamp := by
    simp [isStale]
  unfold dispositionOf routeTest
  simp only [invalid, stale, stations_eq_none_iff, findRecord_isSome_iff]
  by_cases held : (b.route r.cls).hold = true
  · simp only [if_pos held]
  · by_cases passed : ∀ st, (b.route r.cls).stations.get st = false
    · simp only [if_neg held, if_pos passed]
    · by_cases unsure : r.confidence < (b.route r.cls).minConfidence
      · simp only [if_neg held, if_neg passed, if_pos unsure]
      · simp only [if_neg held, if_neg passed, if_neg unsure]

/-! ### A take -/

theorem takeDue_of {b : Block} {r : DetectionRecord} {rest : List DetectionRecord} (running : b.resetting = none)
    (past : b.line.state ≠ .startup) (queue : b.intake.queue = r :: rest)
    (waited : ∀ last, b.intake.lastTake = some last → last + 20 ≤ b.clock) : takeDue b = true := by
  unfold takeDue
  rw [(started_iff running).mpr past, queue]
  cases taken : b.intake.lastTake with
  | none => rfl
  | some last => simpa [reached_iff, Config.takePeriod] using waited last taken

section

variable {b : Block} {r : DetectionRecord} {rest : List DetectionRecord} (queue : b.intake.queue = r :: rest)

include queue

theorem takeOne_passed (h : dispositionOf b r ≠ .admitted) :
    takeOne b = b.setIntake (b.intake.takeHead rest b.clock (dispositionOf b r)) := by
  unfold takeOne
  rw [queue]
  exact if_neg h

theorem takeOne_admitted (h : dispositionOf b r = .admitted) :
    takeOne b = admitPiece r (b.setIntake (b.intake.takeHead rest b.clock .admitted)) := by
  unfold takeOne
  rw [queue]
  dsimp only
  rw [if_pos h, h]

theorem takeOne_intake : (takeOne b).intake = b.intake.takeHead rest b.clock (dispositionOf b r) := by
  by_cases h : dispositionOf b r = .admitted
  · rw [takeOne_admitted queue h, h]
    exact (commitDueSlots_kept _ _).intake
  · rw [takeOne_passed queue h]
    rfl

end

theorem route_of_get {b : Block} {cls : Nat} {e : RouteEntry} (h : b.settings.routes[cls]? = some e) : b.route cls = e := by
  simp [Block.route, h]

/-- Settles O14: the tallies by definition, the take's trace in the intake unit, and the disposition in its order. -/
theorem takeGivesOneDisposition : Obligations.TakeGivesOneDisposition := by
  unfold Obligations.TakeGivesOneDisposition
  refine ⟨bump_eq, fun t => ⟨rfl, rfl, rfl, rfl, rfl, rfl, rfl, rfl, rfl⟩, fun b cls e => route_of_get,
    fun s r rest running past queue waited => ⟨?_, dispositionOf_eq s.toBlock r⟩⟩
  have due := takeDue_of (b := s.toBlock) running past queue waited
  refine ⟨_, (eventIf_due due s takeOne).trans (event_next _ _), ?_, fun refused => ?_⟩
  · exact takeOne_intake (b := s.toBlock) queue
  · rw [takeOne_passed (b := s.toBlock) queue refused]
    rfl

/-! ### An admission -/

theorem dueNow_eq (st : StationId) (tag : Nat) (b : Block) :
    dueNow st tag b =
      (findSlot tag st b.track.table).any fun sl => sl.state = .waiting ∧ sl.commitSlice ≤ (b.pos.slice : Int) := by
  unfold dueNow
  cases findSlot tag st b.track.table with
  | none => rfl
  | some sl =>
    rw [Bool.eq_iff_iff]
    simp

theorem commitDueSlots_eq (tag : Nat) (b : Block) :
    commitDueSlots tag b =
      retireFinished
        ([0, 1, 2, 3].foldl
          (fun acc st =>
            if (findSlot tag st acc.track.table).any fun sl =>
                sl.state = .waiting ∧ sl.commitSlice ≤ (acc.pos.slice : Int) then
              retireFinished (commitAt st tag acc)
            else acc) b) := by
  unfold commitDueSlots
  simp only [dueNow_eq]
  rfl

/-- With none due and none finished a take or an AMEND commits and retires nothing. -/
theorem commitDueSlots_none {tag : Nat} {b : Block} (due : ∀ st, dueNow st tag b = false)
    (finished : ∀ q ∈ b.track.table, q.finished = false) : commitDueSlots tag b = b := by
  have idle : allStations.foldl (fun acc st => if dueNow st tag acc then retireFinished (commitAt st tag acc) else acc) b = b :=
    List.foldlRecOn (motive := fun c => c = b) allStations _ rfl fun c same st _ => by
      subst same
      simp [due]
  rw [commitDueSlots, idle]
  exact retireFinished_none finished

/-- A record with a tag of its own is found where it was placed. -/
theorem findRecord_placed {front back : List ParticleRecord} {r : ParticleRecord} (own : ∀ q ∈ front, q.tag ≠ r.tag) :
    findRecord r.tag (front ++ r :: back) = some r := by
  have none : front.find? (fun q => q.tag == r.tag) = none := by simpa using own
  simp [findRecord, List.find?_append, none]

/-- What an admission makes of the blocks before the commits (R31, R35, R36). -/
theorem admitPiece_eq {b : Block} {r : DetectionRecord} {p : Nat} (u : IntakeUnit)
    (position : rebuild b.pos.x r.stamp = (p : Int)) :
    admitPiece r (b.setIntake u) =
      commitDueSlots r.tag
        { b with
          intake := u
          ranks := (createSlots b (b.route r.cls) p).2
          track := { b.track with
            table := b.track.table.takeWhile (fun q => q.position ≤ p) ++
              admittedRecord r (b.route r.cls) p (createSlots b (b.route r.cls) p).1 ::
                b.track.table.dropWhile (fun q => q.position ≤ p) } } := by
  have place : (rebuild b.pos.x r.stamp).toNat = p := by rw [position, Int.toNat_natCast]
  have placed := insertRecord_split (admittedRecord r (b.route r.cls) p (createSlots b (b.route r.cls) p).1) b.track.table
  have route : (b.setIntake u).route r.cls = b.route r.cls := rfl
  unfold admitPiece
  dsimp only [Block.setIntake_pos]
  rw [place, createSlots_setIntake, route]
  show commitDueSlots r.tag (((b.setIntake u).setRanks _).setTable (insertRecord _ b.track.table)) = _
  rw [placed]
  rfl

/-- Settles O15: the admission in one piece, and the commits it makes. -/
theorem admissionPlacesTheRecord : Obligations.AdmissionPlacesTheRecord := by
  unfold Obligations.AdmissionPlacesTheRecord
  refine ⟨fun s r rest e p record table intake running queue waited admitted he position hrecord htable hintake => ?_,
    commitDueSlots_eq⟩
  obtain ⟨run, unknown, _⟩ := dispositionOf_admitted admitted
  have past : s.line.state ≠ .startup := by simp [run]
  have due := takeDue_of (b := s.toBlock) running past queue waited
  have taken : takeOne s.toBlock =
      commitDueSlots r.tag
        { s.toBlock with
          intake := intake
          ranks := (createSlots s.toBlock e p).2
          track := { s.track with table := table } } := by
    rw [takeOne_admitted (b := s.toBlock) queue admitted, admitPiece_eq _ position, he.symm, hintake,
      htable, hrecord]
    rfl
  have exec_eq : exec .take s = event s takeOne := eventIf_due due s takeOne
  refine ⟨fun out hout => ?_, fun waiting standing => ?_⟩
  · have time : out.clock = s.clock := by
      rw [hout]
      exact (commitDueSlots_kept _ _).clock
    exact exec_eq.trans (event_out (taken.trans hout.symm) time)
  · have quiet : ∀ st, dueNow st r.tag
        { s.toBlock with
          intake := intake
          ranks := (createSlots s.toBlock e p).2
          track := { s.track with table := table } } = false := by
      intro st
      have found : findSlot r.tag st table = record.slots.get st := by
        have own : ∀ q ∈ s.track.table.takeWhile (fun q => q.position ≤ p), q.tag ≠ record.tag := fun q inFront => by
          rw [hrecord]
          exact findRecord_none unknown q ((List.takeWhile_prefix _).subset inFront)
        have tag : r.tag = record.tag := by rw [hrecord]
        rw [findSlot, tag, htable, findRecord_placed own]
        rfl
      rw [dueNow_eq, found]
      cases slot : record.slots.get st with
      | none => rfl
      | some sl => simpa using waiting st sl slot
    rw [exec_eq, event_next, taken, commitDueSlots_none quiet standing]
    rfl

end Sys2Proof.Machine
end

section
/-! PROOFS. The least-loaded choice (R62), the slots of a new record (R36), and the stages a to h of a commit (R80 to
R87). -/

namespace Sys2Proof.Machine

/-! ### The choice -/

/-- `x` is as good a candidate as `y`: a shorter list, or one of the same length and no lower rank (R62). -/
def AsGood (b : Block) (x y : StationId) : Prop :=
  (b.lists.get x).length ≤ (b.lists.get y).length ∧
    ((b.lists.get y).length = (b.lists.get x).length → b.ranks.get y ≤ b.ranks.get x)

theorem AsGood.refl (b : Block) (x : StationId) : AsGood b x x := ⟨Nat.le_refl _, fun _ => Nat.le_refl _⟩

theorem AsGood.trans {b : Block} {x y z : StationId} (h : AsGood b x y) (k : AsGood b y z) : AsGood b x z := by
  obtain ⟨shorter, rank⟩ := h
  obtain ⟨shorter', rank'⟩ := k
  exact ⟨shorter.trans shorter', fun same => (rank' (by omega)).trans (rank (by omega))⟩

/-- The better of two is one of them, and as good as both. -/
theorem better_spec (b : Block) (x y : StationId) :
    (better b x y = x ∨ better b x y = y) ∧ AsGood b (better b x y) x ∧ AsGood b (better b x y) y := by
  unfold better
  dsimp only
  split
  next worse =>
    simp only [Bool.or_eq_true, Bool.and_eq_true, decide_eq_true_eq, beq_iff_eq] at worse
    exact ⟨.inr rfl, ⟨by omega, by omega⟩, .refl b y⟩
  next as_good =>
    simp only [Bool.or_eq_true, Bool.and_eq_true, decide_eq_true_eq, beq_iff_eq] at as_good
    exact ⟨.inl rfl, .refl b x, ⟨by omega, by omega⟩⟩

theorem foldl_better (b : Block) (l : List StationId) (x : StationId) :
    l.foldl (better b) x ∈ x :: l ∧ ∀ y ∈ x :: l, AsGood b (l.foldl (better b) x) y := by
  induction l generalizing x with
  | nil =>
    refine ⟨List.mem_singleton_self x, fun y hy => ?_⟩
    rw [List.mem_singleton.mp hy]
    exact .refl b x
  | cons z l ih =>
    obtain ⟨one, overX, overZ⟩ := better_spec b x z
    obtain ⟨inList, best⟩ := ih (better b x z)
    have head := best _ (List.mem_cons_self ..)
    rw [List.foldl_cons]
    constructor
    · rcases List.mem_cons.mp inList with e | tail
      · rw [e]
        rcases one with e | e <;> simp [e]
      · exact List.mem_cons_of_mem _ (List.mem_cons_of_mem _ tail)
    · intro y hy
      rcases List.mem_cons.mp hy with rfl | hy
      · exact head.trans overX
      · rcases List.mem_cons.mp hy with rfl | hy
        · exact head.trans overZ
        · exact best y (List.mem_cons_of_mem _ hy)

theorem mem_candidates (b : Block) (e : RouteEntry) (st : StationId) :
    st ∈ candidates b e ↔ e.stations.get st = true ∧ (b.station st).state = .armed := by
  have all : st ∈ allStations := by fin_cases st <;> decide
  simp [candidates, all]

theorem chooseStation_eq_none_iff (b : Block) (e : RouteEntry) :
    chooseStation b e = none ↔ ∀ st, e.stations.get st = true → (b.station st).state ≠ .armed := by
  have empty : chooseStation b e = none ↔ candidates b e = [] := by
    unfold chooseStation
    cases candidates b e <;> simp
  rw [empty, List.eq_nil_iff_forall_not_mem]
  simp only [mem_candidates, not_and]

theorem chooseStation_best {b : Block} {e : RouteEntry} {chosen : StationId} (h : chooseStation b e = some chosen) :
    chosen ∈ candidates b e ∧ ∀ st ∈ candidates b e, AsGood b chosen st := by
  unfold chooseStation at h
  split at h
  · cases h
  next st rest list =>
    cases h
    rw [list]
    exact foldl_better b rest st

/-! ### The slots of a new record -/

theorem slotsOver_get (e : RouteEntry) (make : StationId → Slot) (st : StationId) :
    (slotsOver e make).get st = if e.stations.get st = false then none else some (make st) := by
  have one : (slotsOver e make).get st = if e.stations.get st = true then some (make st) else none := by
    fin_cases st <;> rfl
  rw [one]
  cases e.stations.get st <;> rfl

/-- Settles O18: the fold of the better candidate, and the slots by delivery. -/
theorem choiceTakesTheShortestList : Obligations.ChoiceTakesTheShortestList := by
  unfold Obligations.ChoiceTakesTheShortestList
  refine fun b e => ⟨chooseStation_eq_none_iff b e, fun chosen h => ?_, fun p st slice hslice => ?_⟩
  · obtain ⟨candidate, best⟩ := chooseStation_best h
    obtain ⟨named, armed⟩ := (mem_candidates b e chosen).mp candidate
    exact ⟨named, armed, fun st inSet isArmed => best st ((mem_candidates b e st).mpr ⟨inSet, isArmed⟩)⟩
  · have waiting : waitingSlot b st p = ⟨.waiting, slice, none, SlotFlags.clear⟩ := by
      rw [hslice]
      rfl
    have final (o : SlotOutcome) :
        finalSlot b st p o = ⟨.final o, Config.finalSlotCommitSlice slice, none, SlotFlags.clear⟩ := by
      rw [hslice]
      rfl
    unfold createSlots
    cases delivery : e.delivery with
    | fixed => simp [slotsOver_get, waiting, SlotFlags.clear]
    | all => simp [slotsOver_get, waiting, SlotFlags.clear]
    | leastLoaded =>
      cases choice : chooseStation b e with
      | none => simp [slotsOver_get, final, SlotFlags.clear]
      | some chosen =>
        by_cases here : st = chosen
        · subst here
          simp [slotsOver_get, waiting, SlotFlags.clear]
        · simp [slotsOver_get, here, Ne.symm here, final, SlotFlags.clear]

/-! ### Stages a to f (R80 to R84) -/

theorem ceilDiv_spec {s : Nat} (pos : 0 < s) (n : Nat) : n ≤ ceilDiv n s * s ∧ ceilDiv n s * s < n + s := by
  have split := Nat.div_add_mod (n + s - 1) s
  have small := Nat.mod_lt (n + s - 1) pos
  rw [ceilDiv, Nat.mul_comm]
  omega

/-- The least multiple of s at or past n is the only one within s of it. -/
theorem ceilDiv_unique {s n q : Nat} (low : n ≤ q * s) (high : q * s < n + s) : ceilDiv n s = q := by
  have pos : 0 < s := by omega
  obtain ⟨low', high'⟩ := ceilDiv_spec pos n
  have below : ceilDiv n s < q + 1 := Nat.lt_of_mul_lt_mul_right (a := s) (by rw [Nat.add_mul]; omega)
  have above : q < ceilDiv n s + 1 := Nat.lt_of_mul_lt_mul_right (a := s) (by rw [Nat.add_mul]; omega)
  omega

theorem span_of_lt {a b s : Nat} (pos : 0 < s) (h : a < b) : a / s < ceilDiv b s := by
  have := (ceilDiv_spec pos b).1
  exact (Nat.div_lt_iff_lt_mul pos).mpr (by omega)

theorem lengthened_eq {on off minOn : Nat} (h : on ≤ off) : lengthened on off minOn = max off (on + minOn) := by
  unfold lengthened
  split <;> omega

theorem capped_eq {on off cap : Nat} (h : on ≤ off) : capped on off cap = min off (on + cap) := by
  unfold capped
  split <;> omega

theorem lateOn_eq {on off c : Nat} (h : on < off) :
    lateOn on off c = if max on (c + 1) < off then some (max on (c + 1)) else none := by
  unfold lateOn
  by_cases inTime : c + 1 ≤ on
  · rw [if_pos inTime, Nat.max_eq_left inTime, if_pos h]
  · rw [if_neg inTime, Nat.max_eq_right (by omega)]

/-! ### Stages g and h (R85 to R87) -/

theorem usableChannels_eq (chans : List Channel) (first last : Nat) :
    usableChannels chans first last =
      (List.range' first (last + 1 - first)).filter fun ch => (channelAt chans ch).fault = none := by
  refine List.filter_congr fun ch _ => ?_
  cases (channelAt chans ch).fault <;> rfl

theorem usableChannels_fewer_iff (chans : List Channel) (first last : Nat) :
    (usableChannels chans first last).length < last + 1 - first ↔
      ((List.range' first (last + 1 - first)).any fun ch => (channelAt chans ch).fault.isSome) = true := by
  have fewer := List.length_filter_lt_length_iff_exists (l := List.range' first (last + 1 - first))
    (p := fun ch => (channelAt chans ch).fault.isNone)
  rw [List.length_range'] at fewer
  rw [usableChannels, fewer]
  simp [Option.isSome_iff_ne_none]

/-- DEGRADED after stage g: by an unknown pattern, or by a channel that is not OK (R71, R86). -/
theorem markDegraded_if (late truncated known some : Bool) (n m : Nat) (h : n < m ↔ some = true) :
    (if n < m then SlotFlags.markDegraded ⟨late, truncated, false, false, !known⟩
      else ⟨late, truncated, false, false, !known⟩) = ⟨late, truncated, false, false, !known || some⟩ := by
  cases some <;> simp [h, SlotFlags.markDegraded]

theorem toNat_eq_max (a : Int) : (max a 0).toNat = a.toNat := by omega

/-- Where the span ends, found from either side (R82). -/
theorem ceilDiv_toNat {b : Int} {s off : Nat} (pos : 0 < b) (low : b ≤ (off * s : Nat))
    (high : ((off * s : Nat) : Int) < b + s) : ceilDiv b.toNat s = off :=
  ceilDiv_unique (by omega) (by omega)

/-- Settles O19: each stage as an equation, and the commit's checks 3 and 4 as their composition. -/
theorem spanStagesFollowTheArithmetic : Obligations.SpanStagesFollowTheArithmetic := by
  unfold Obligations.SpanStagesFollowTheArithmetic
  refine ⟨fun a b s pos less => ?_, fun on off minOn cap less _ _ => ?_, fun on off c less => ?_, ?_⟩
  · exact ⟨⟨Nat.div_mul_le_self a s, Nat.lt_div_mul_add pos⟩, ceilDiv_spec pos b, span_of_lt pos less⟩
  · rw [lengthened_eq less.le, capped_eq (by omega)]
    omega
  · rw [lateOn_eq less]
    refine ⟨fun h => ?_, fun h h' => ?_, fun h h' => ?_⟩
    · rw [Nat.max_eq_left h, if_pos less]
    · rw [Nat.max_eq_right h.le, if_pos h']
    · rw [if_neg (by omega)]
  · intro r cfg p known chans c v s k a b pos minPos capPos cfgPos leadLow leadHigh ha hb
    have lead : leadCounts cfg.latency v = k := ceilDiv_unique (by omega) (by omega)
    have onAt : switchOnAt r cfg p k = a := ha.symm
    have offAt : switchOffAt r cfg p k = b := hb.symm
    unfold planCommit
    simp only [lead, onAt, offAt]
    refine ⟨fun before => by rw [if_pos before]; rfl, fun after on off long cap cut hon hoff hlong hcap hcut => ?_⟩
    have onC : a.toNat / s = on := by rw [hon, toNat_eq_max]
    have offC : ceilDiv b.toNat s = off := ceilDiv_toNat after hoff.1 hoff.2
    have ordered : on ≤ off := by
      rw [← onC, ← offC]
      exact Nat.div_le_of_le_mul (by have := (ceilDiv_spec pos b.toNat).1; rw [Nat.mul_comm]; omega)
    have longer : lengthened on off p.minOn = long := by rw [lengthened_eq ordered, hlong]
    have shorter : capped on long (min p.maxOn cfg.maxOn) = cut := by rw [capped_eq (by omega), hcut, hcap]
    have cutPast : on < cut := by omega
    have truncated : decide (min p.maxOn cfg.maxOn < long - on) = decide (on + cap < long) := by
      rw [hcap, decide_eq_decide]
      omega
    simp only [if_neg (show ¬ b ≤ 0 by omega), onC, offC, longer, shorter, truncated, lateOn_eq cutPast]
    refine ⟨fun missed => by rw [if_neg (by omega)]; rfl, fun inTime first last usable flags hfirst hlast husable hflags => ?_⟩
    have firstIs : firstChannelOf r cfg p = first := hfirst.symm
    have lastIs : lastChannelOf r cfg p = last := hlast.symm
    have usableIs : usableChannels chans first last = usable := by rw [husable, usableChannels_eq]
    have fewer := usableChannels_fewer_iff chans first last
    rw [usableIs] at fewer
    have flagsIs := markDegraded_if (decide (on < c + 1)) (decide (on + cap < long)) known _ _ _ fewer
    rw [← hflags] at flagsIs
    simp only [if_pos inTime, firstIs, lastIs, usableIs, SlotFlags.clear, flagsIs, List.isEmpty_iff]

end Sys2Proof.Machine
end

section
/-! PROOFS. Relations between entries (R90, R91), the list as a commit would leave it (R92 to R98), and the withdrawal of
tags (R104). -/

namespace Sys2Proof.Machine

/-! ### Spans that meet (R90, R91) -/

theorem overlaps_iff {e n : Entry} (he : e.onSlice < e.offSlice) (hn : n.onSlice < n.offSlice) :
    overlaps e n = true ↔ n.onSlice < e.offSlice ∧ e.onSlice < n.offSlice := by
  simp only [overlaps, laterOn, earlierOff, Entry.isEarlier, Bool.or_eq_true, Bool.and_eq_true, decide_eq_true_eq,
    beq_iff_eq]
  split <;> omega

/-- Two EJECT spans: an overlap, or a gap below the minimum. -/
theorem overlaps_or_gap_iff {e n : Entry} (he : e.onSlice < e.offSlice) (hn : n.onSlice < n.offSlice) (g : Nat) :
    overlaps n e = true ∨ gap n e < g ↔ n.onSlice < e.offSlice + g ∧ e.onSlice < n.offSlice + g := by
  simp only [overlaps, gap, laterOn, earlierOff, Entry.isEarlier, Bool.or_eq_true, Bool.and_eq_true, decide_eq_true_eq,
    beq_iff_eq]
  split <;> omega

/-- Two SHIELD spans: an overlap, or a crossing in common. -/
theorem overlaps_or_touches_iff {e n : Entry} (he : e.onSlice < e.offSlice) (hn : n.onSlice < n.offSlice) :
    overlaps n e = true ∨ touches n e = true ↔ n.onSlice ≤ e.offSlice ∧ e.onSlice ≤ n.offSlice := by
  simp only [overlaps, touches, laterOn, earlierOff, Entry.isEarlier, Bool.or_eq_true, Bool.and_eq_true,
    decide_eq_true_eq, beq_iff_eq]
  split <;> omega

theorem related_iff {e n : Entry} (he : e.onSlice < e.offSlice) (hn : n.onSlice < n.offSlice) (minGap : Nat) :
    related minGap n e = true ↔
      n.channel = e.channel ∧
        if n.kind = .eject ∧ e.kind = .eject then
          n.onSlice < e.offSlice + minGap ∧ e.onSlice < n.offSlice + minGap
        else if n.kind = e.kind then n.onSlice ≤ e.offSlice ∧ e.onSlice ≤ n.offSlice
        else n.onSlice < e.offSlice ∧ e.onSlice < n.offSlice := by
  have apart := overlaps_iff hn he
  unfold related
  rw [Bool.and_eq_true, beq_iff_eq]
  refine and_congr_right fun _ => ?_
  cases kindN : n.kind <;> cases kindE : e.kind
  case eject.eject => simpa using overlaps_or_gap_iff he hn minGap
  case shield.shield => simpa using overlaps_or_touches_iff he hn
  all_goals simp only [reduceCtorEq, and_false, false_and, if_false, apart]; exact and_comm

/-! ### Partners and opponents (R92, R93) -/

theorem joinedOn_eq (l : List Entry) (n : Entry) : joinedOn l n = (l.map (·.onSlice)).foldl min n.onSlice := by
  rw [joinedOn, List.foldl_map]

theorem joinedOff_eq (l : List Entry) (n : Entry) : joinedOff l n = (l.map (·.offSlice)).foldl max n.offSlice := by
  rw [joinedOff, List.foldl_map]

theorem tagsWith_eq (l : List Entry) (n : Entry) : tagsWith l n = (l.flatMap (·.tags) ++ n.tags).dedup := distinct_eq _

theorem mergeFeasible_iff (cfg : StationSettings) (cands : List Entry) (n : Entry) :
    mergeFeasible cfg cands n = true ↔
      (cands.flatMap (·.tags) ++ n.tags).dedup.length ≤ 4 ∧
        (n.kind = .eject → joinedOff cands n - joinedOn cands n ≤ cfg.maxOn) := by
  unfold mergeFeasible
  rw [Bool.and_eq_true, decide_eq_true_eq, tagsWith_eq]
  refine and_congr_right fun _ => ?_
  cases n.kind <;> simp

theorem otherKind_eq (l : List Entry) (n : Entry) (on off : Nat) :
    otherKind l n on off =
      l.filter fun e =>
        e.channel = n.channel ∧ e.kind ≠ n.kind ∧ overlaps e { n with onSlice := on, offSlice := off } = true := by
  refine List.filter_congr fun e _ => ?_
  rw [Bool.eq_iff_iff]
  simp [and_assoc]

theorem bidOf_eq (cfg : StationSettings) (l : List Entry) (n : Entry) (cands : List Entry)
    (h : cands = l.filter fun e => e.kind = n.kind ∧ related cfg.minGap n e = true) :
    bidOf cfg l n =
      if cands = [] then ⟨n, [], otherKind l n n.onSlice n.offSlice⟩
      else if mergeFeasible cfg cands n = true then
        ⟨n, cands, otherKind l n (joinedOn cands n) (joinedOff cands n)⟩
      else ⟨n, [], cands ++ otherKind l n n.onSlice n.offSlice⟩ := by
  have same : (l.filter fun e => e.kind == n.kind && related cfg.minGap n e) = cands := by
    rw [h]
    refine List.filter_congr fun e _ => ?_
    rw [Bool.eq_iff_iff]
    simp
  unfold bidOf
  simp only [same, List.isEmpty_iff]

/-- A bid is for its newcomer. -/
theorem bidOf_entry (cfg : StationSettings) (l : List Entry) (n : Entry) : (bidOf cfg l n).entry = n := by
  rw [bidOf_eq cfg l n _ rfl]
  split
  · rfl
  · split <;> rfl

theorem slotCommitted_iff (t : List ParticleRecord) (st : StationId) (tag : Nat) :
    slotCommitted t st tag = true ↔ (findSlot tag st t).map (·.state) = some .committed := by
  unfold slotCommitted
  cases findSlot tag st t <;> simp

theorem isActive_entry_iff (s : EntryState) : s.isActive = false ↔ s = .committed := by cases s <;> simp [EntryState.isActive]

theorem beats_iff (t : List ParticleRecord) (st : StationId) (priority : Nat) (o : Entry) :
    beats t st priority o = true ↔
      o.state = .committed ∧ o.priority < priority ∧
        ∀ tag ∈ o.tags, (findSlot tag st t).map (·.state) = some .committed := by
  simp only [beats, Bool.and_eq_true, Bool.not_eq_true', decide_eq_true_eq, List.all_eq_true, isActive_entry_iff,
    slotCommitted_iff, and_assoc]

/-- Every opponent is beaten, or one of them is not (R94). -/
theorem all_beats_iff (t : List ParticleRecord) (st : StationId) (priority : Nat) (l : List Entry) :
    (!l.all (beats t st priority)) = true ↔
      ∃ o ∈ l, o.state ≠ .committed ∨ priority ≤ o.priority ∨
        ∃ tag ∈ o.tags, (findSlot tag st t).map (·.state) ≠ some .committed := by
  simp only [Bool.not_eq_true', List.all_eq_false, beats_iff, not_and_or, not_lt, not_forall, ne_eq, exists_prop]

/-! ### The list order and the air count (R88, R98) -/

theorem before_iff (e f : Entry) :
    e.before f = true ↔ e.onSlice < f.onSlice ∨ e.onSlice = f.onSlice ∧ e.channel < f.channel := by
  simp [Entry.before]

/-- An entry is written ahead of the first it stands before. -/
theorem insertEntry_split (e : Entry) (l : List Entry) :
    insertEntry e l = l.takeWhile (fun f => !e.before f) ++ e :: l.dropWhile fun f => !e.before f := by
  induction l with
  | nil => rfl
  | cons f l ih =>
    unfold insertEntry
    by_cases h : e.before f = true
    · simp [h]
    · simp [h, ih]

theorem covers_iff (e : Entry) (slice : Nat) : e.covers slice = true ↔ e.onSlice ≤ slice ∧ slice < e.offSlice := by
  simp [Entry.covers]

theorem airCount_eq (l : List Entry) (slice : Nat) :
    airCount l slice =
      ((l.filter fun e => e.kind = .eject ∧ e.onSlice ≤ slice ∧ slice < e.offSlice).map (·.channel)).dedup.length := by
  have same : (l.filter fun e => e.kind == .eject && e.covers slice) =
      l.filter fun e => e.kind = .eject ∧ e.onSlice ≤ slice ∧ slice < e.offSlice := by
    refine List.filter_congr fun e _ => ?_
    rw [Bool.eq_iff_iff]
    simp [covers_iff]
  rw [airCount, distinct_eq, same]

/-- The channels an air count counts. -/
theorem airCount_le {l k : List Entry} {slice : Nat}
    (h : ∀ e ∈ l, e.kind = .eject → e.onSlice ≤ slice → slice < e.offSlice →
      ∃ f ∈ k, f.kind = .eject ∧ f.channel = e.channel ∧ f.onSlice ≤ slice ∧ slice < f.offSlice) :
    airCount l slice ≤ airCount k slice := by
  rw [airCount_eq, airCount_eq]
  refine ((List.nodup_dedup _).subperm fun ch inL => ?_).length_le
  simp only [List.mem_dedup, List.mem_map, List.mem_filter, decide_eq_true_eq] at inL ⊢
  obtain ⟨e, ⟨mem, kind, on, off⟩, rfl⟩ := inL
  obtain ⟨f, mem', kind', channel, on', off'⟩ := h e mem kind on off
  exact ⟨f, ⟨mem', kind', on', off'⟩, channel⟩

/-- The check of the air limit, as it fails (R98). -/
theorem airWithin_eq_false_iff (limit : Nat) (l : List Entry) (written : List Written) :
    airWithin limit l written = false ↔
      ∃ w ∈ written, ∃ slice ∈ List.range' w.entry.onSlice (w.entry.offSlice - w.entry.onSlice),
        limit < airCount l slice := by
  simp only [airWithin, List.all_eq_false, Bool.not_eq_true, decide_eq_false_iff_not, not_le]

theorem airWithin_spec {limit : Nat} {l : List Entry} {written : List Written} (h : airWithin limit l written ≠ false)
    {w : Written} (mem : w ∈ written) {slice : Nat} (on : w.entry.onSlice ≤ slice) (off : slice < w.entry.offSlice) :
    airCount l slice ≤ limit := by
  rw [Ne, airWithin_eq_false_iff] at h
  by_contra above
  refine h ⟨w, mem, slice, List.mem_range'_1.mpr ⟨on, by omega⟩, by omega⟩

/-! ### Withdrawal (R89, R104) -/

/-- What an entry keeps of its tags. -/
def Entry.kept (gone : List Nat) (e : Entry) : List Nat := e.tags.filter fun tag => !gone.contains tag

theorem mem_kept (gone : List Nat) (e : Entry) (tag : Nat) : tag ∈ e.kept gone ↔ tag ∈ e.tags ∧ tag ∉ gone := by
  simp [Entry.kept]

theorem kept_eq_self_iff (gone : List Nat) (e : Entry) : e.kept gone = e.tags ↔ ∀ tag ∈ gone, tag ∉ e.tags := by
  rw [Entry.kept, List.filter_eq_self]
  simp only [Bool.not_eq_true', List.contains_eq_mem, decide_eq_false_iff_not]
  exact ⟨fun h tag isGone inTags => h tag inTags isGone, fun h tag inTags isGone => h tag isGone inTags⟩

/-- What is left of an entry: none of it without a tag, itself where it keeps them all. -/
theorem without_eq_some_iff (t : List ParticleRecord) (gone : List Nat) (f e : Entry) :
    Entry.without t gone f = some e ↔
      f.kept gone ≠ [] ∧
        e = if f.kept gone = f.tags then f
          else { f with tags := f.kept gone, priority := highestPriority t (f.kept gone) } := by
  have whole : (f.kept gone).length = f.tags.length ↔ f.kept gone = f.tags :=
    ⟨List.filter_sublist.eq_of_length, congrArg List.length⟩
  unfold Entry.without
  dsimp only
  rw [show (f.tags.filter fun tag => !gone.contains tag) = f.kept gone from rfl]
  simp only [List.isEmpty_iff, whole]
  by_cases none_left : f.kept gone = []
  · simp [none_left]
  · simp only [none_left, if_false, ne_eq, not_false_eq_true, true_and]
    split <;> simp [eq_comm]

/-- An entry `e` that a withdrawal has left of an entry `f`. -/
structure Entry.Left (t : List ParticleRecord) (gone : List Nat) (f e : Entry) : Prop where
  channel : e.channel = f.channel
  onSlice : e.onSlice = f.onSlice
  offSlice : e.offSlice = f.offSlice
  kind : e.kind = f.kind
  state : e.state = f.state
  tags : e.tags = f.kept gone
  whole : e.tags = f.tags → e = f
  priority : e.tags ≠ f.tags → e.priority = highestPriority t e.tags

theorem without_left {t : List ParticleRecord} {gone : List Nat} {f e : Entry} (h : Entry.without t gone f = some e) :
    f.Left t gone e ∧ f.kept gone ≠ [] := by
  obtain ⟨some_left, rfl⟩ := (without_eq_some_iff t gone f e).mp h
  refine ⟨?_, some_left⟩
  by_cases all : f.kept gone = f.tags
  · rw [if_pos all]
    exact ⟨rfl, rfl, rfl, rfl, rfl, all.symm, fun _ => rfl, fun no => absurd rfl no⟩
  · rw [if_neg all]
    exact ⟨rfl, rfl, rfl, rfl, rfl, rfl, fun whole => absurd whole all, fun _ => rfl⟩

theorem mem_withdrawTags {t : List ParticleRecord} {gone : List Nat} {l : List Entry} {e : Entry} :
    e ∈ withdrawTags t gone l ↔ ∃ f ∈ l, Entry.without t gone f = some e := List.mem_filterMap

/-- An entry of the list a withdrawal leaves is what is left of an entry of the list. -/
theorem left_of_mem {t : List ParticleRecord} {gone : List Nat} {l : List Entry} {e : Entry}
    (h : e ∈ withdrawTags t gone l) : ∃ f ∈ l, f.Left t gone e ∧ f.kept gone ≠ [] := by
  obtain ⟨f, mem, some⟩ := mem_withdrawTags.mp h
  exact ⟨f, mem, without_left some⟩

/-- An entry that keeps a tag stays. -/
theorem exists_left {t : List ParticleRecord} {gone : List Nat} {l : List Entry} {f : Entry} (mem : f ∈ l)
    (h : f.kept gone ≠ []) : ∃ e ∈ withdrawTags t gone l, f.Left t gone e := by
  have some := (without_eq_some_iff t gone f _).mpr ⟨h, rfl⟩
  exact ⟨_, mem_withdrawTags.mpr ⟨f, mem, some⟩, (without_left some).1⟩

theorem foldl_max_eq (g : Nat → Nat) (l : List Nat) (m : Nat) :
    (m ≤ l.foldl (fun p x => max p (g x)) m ∧ ∀ x ∈ l, g x ≤ l.foldl (fun p x => max p (g x)) m) ∧
      (l.foldl (fun p x => max p (g x)) m = m ∨ ∃ x ∈ l, g x = l.foldl (fun p x => max p (g x)) m) := by
  induction l generalizing m with
  | nil => simp
  | cons y l ih =>
    obtain ⟨⟨start, above⟩, reached⟩ := ih (max m (g y))
    rw [List.foldl_cons]
    simp only [List.forall_mem_cons, List.exists_mem_cons_iff]
    refine ⟨⟨by omega, by omega, above⟩, ?_⟩
    rcases reached with e | attained
    · rw [e]
      omega
    · exact .inr (.inr attained)

theorem tagPriority_eq {t : List ParticleRecord} {tag : Nat} {r : ParticleRecord} (h : findRecord tag t = some r) :
    tagPriority t tag = r.priority := by
  unfold tagPriority
  rw [h]

/-- The priority of some tags is the largest of their records', and 0 without a record (R89). -/
theorem highestPriority_spec (t : List ParticleRecord) (tags : List Nat) :
    (∀ tag ∈ tags, ∀ r, findRecord tag t = some r → r.priority ≤ highestPriority t tags) ∧
      (highestPriority t tags = 0 ∨
        ∃ tag ∈ tags, ∃ r, findRecord tag t = some r ∧ r.priority = highestPriority t tags) := by
  obtain ⟨⟨_, above⟩, reached⟩ := foldl_max_eq (tagPriority t) tags 0
  refine ⟨fun tag mem r found => tagPriority_eq found ▸ above tag mem, ?_⟩
  rcases reached with zero | ⟨tag, mem, is⟩
  · exact .inl zero
  · cases found : findRecord tag t with
    | some r => exact .inr ⟨tag, mem, r, found, (tagPriority_eq found).symm.trans is⟩
    | none =>
      have zero : tagPriority t tag = 0 := by
        unfold tagPriority
        rw [found]
      exact .inl (is.symm.trans zero)

/-- The entries that stay keep their order, their channels and their on slices (R104). -/
theorem withdrawTags_places (t : List ParticleRecord) (gone : List Nat) (l : List Entry) :
    ((withdrawTags t gone l).map fun e => (e.channel, e.onSlice)).Sublist (l.map fun e => (e.channel, e.onSlice)) := by
  induction l with
  | nil => exact List.Sublist.refl _
  | cons f l ih =>
    unfold withdrawTags
    rw [List.filterMap_cons]
    cases left : Entry.without t gone f with
    | none => exact ih.cons _
    | some e =>
      obtain ⟨from_f, _⟩ := without_left left
      simp only [List.map_cons, from_f.channel, from_f.onSlice]
      exact ih.cons_cons _

/-- Settles O22: what a withdrawal leaves of each entry, and the order it keeps. -/
theorem withdrawalTakesTheTagsOut : Obligations.WithdrawalTakesTheTagsOut := by
  unfold Obligations.WithdrawalTakesTheTagsOut
  refine fun t gone l => ⟨fun e mem => ?_, fun f mem ⟨tag, inTags, stays⟩ => ?_, fun e mem some_tag apart => ?_,
    highestPriority_spec t, withdrawTags_places t gone l⟩
  · obtain ⟨f, mem', left, some_left⟩ := left_of_mem mem
    refine ⟨left.tags ▸ some_left, fun tag isGone inTags => ?_,
      f, mem', left.channel, left.onSlice, left.offSlice, left.kind, left.state, left.tags, left.whole, left.priority⟩
    exact ((mem_kept gone f tag).mp (left.tags ▸ inTags)).2 isGone
  · have keeps : f.kept gone ≠ [] := List.ne_nil_of_mem ((mem_kept gone f tag).mpr ⟨inTags, stays⟩)
    obtain ⟨e, mem', left⟩ := exists_left (t := t) mem keeps
    exact ⟨e, mem',
      left.channel, left.onSlice, left.offSlice, left.kind, left.state, left.tags, left.whole, left.priority⟩
  · have keeps := (kept_eq_self_iff gone e).mpr apart
    exact mem_withdrawTags.mpr ⟨e, mem, (without_eq_some_iff t gone e e).mpr ⟨keeps ▸ some_tag, by rw [if_pos keeps]⟩⟩

/-! ### The list as a commit would leave it (R95 to R97) -/

/-- An entry is one of a bid's partners, by its channel and on slice (R88). -/
theorem any_same_iff (l : List Entry) (e : Entry) :
    l.any e.same = true ↔ ∃ f ∈ l, f.channel = e.channel ∧ f.onSlice = e.onSlice := by
  simp only [List.any_eq_true, Entry.same, Bool.and_eq_true, beq_iff_eq]
  exact exists_congr fun f => and_congr_right fun _ => and_congr eq_comm eq_comm

/-- The partners of a bid that stand on a list. -/
def Bid.left (kept : List Entry) (bid : Bid) : List Entry := kept.filter fun e => bid.partners.any e.same

theorem joinedState_eq (l : List Entry) :
    joinedState l = ((l.map (·.state)).find? (·.isActive)).getD .committed := by
  rw [List.find?_map]
  unfold joinedState
  cases h : l.find? fun e => e.state.isActive <;> simp [h]

theorem writtenOn_eq (t : List ParticleRecord) (kept : List Entry) (bid : Bid) :
    writtenOn t kept bid =
      if bid.left kept = [] then ⟨bid.entry, false⟩
      else
        ⟨{ bid.entry with
            onSlice := joinedOn (bid.left kept) bid.entry
            offSlice := joinedOff (bid.left kept) bid.entry
            tags := tagsWith (bid.left kept) bid.entry
            priority := highestPriority t (tagsWith (bid.left kept) bid.entry)
            state := joinedState (bid.left kept) }, true⟩ := by
  unfold writtenOn Bid.left
  simp only [List.isEmpty_iff]

theorem writtenOn_kind (t : List ParticleRecord) (kept : List Entry) (bid : Bid) :
    (writtenOn t kept bid).entry.kind = bid.entry.kind := by
  rw [writtenOn_eq]
  split <;> rfl

/-- The list as it would stand once the newcomers of some bids are written (R95, R96). -/
def listAfter (kept : List Entry) (bids : List Bid) (written : List Written) : List Entry :=
  written.foldl (fun acc w => insertEntry w.entry acc)
    (kept.filter fun e => !bids.any fun bid => bid.partners.any e.same)

theorem foldl_insertEntry_perm (ws : List Written) (l : List Entry) :
    (ws.foldl (fun acc w => insertEntry w.entry acc) l).Perm (ws.map (·.entry) ++ l) := by
  induction ws generalizing l with
  | nil => exact List.Perm.refl _
  | cons w ws ih =>
    rw [List.foldl_cons, List.map_cons, List.cons_append]
    exact (ih _).trans (((insertEntry_perm w.entry l).append_left _).trans List.perm_middle)

/-- Ascending on slice, and channel where those are equal (R88). -/
def InListOrder (l : List Entry) : Prop :=
  l.Pairwise fun e f => e.onSlice < f.onSlice ∨ e.onSlice = f.onSlice ∧ e.channel ≤ f.channel

theorem foldl_insertEntry_order (ws : List Written) {l : List Entry} (h : InListOrder l) :
    InListOrder (ws.foldl (fun acc w => insertEntry w.entry acc) l) := by
  induction ws generalizing l with
  | nil => exact h
  | cons w ws ih => exact ih (insertEntry_order h)

/-- An entry of the list as it would stand is a written one, or one the withdrawal has left. -/
theorem mem_listAfter {kept : List Entry} {bids : List Bid} {written : List Written} {e : Entry}
    (h : e ∈ listAfter kept bids written) : (∃ w ∈ written, w.entry = e) ∨ e ∈ kept := by
  rcases List.mem_append.mp ((foldl_insertEntry_perm written _).mem_iff.mp h) with new | old
  · exact .inl (List.mem_map.mp new)
  · exact .inr (List.mem_filter.mp old).1

theorem settleCommit_eq (t : List ParticleRecord) (l : List Entry) (cfg : StationSettings) (capacity : Nat)
    (st : StationId) (r : ParticleRecord) (plan : Plan) (bids : List Bid) (opponents kept list : List Entry)
    (displaced : List Nat) (written : List Written)
    (hbids : bids = plan.newcomers.map (bidOf cfg l)) (hopponents : opponents = bids.flatMap (·.opponents))
    (hdisplaced : displaced = (opponents.flatMap (·.tags)).dedup) (hkept : kept = withdrawTags t displaced l)
    (hwritten : written = bids.map (writtenOn t kept)) (hlist : list = listAfter kept bids written) :
    settleCommit t l cfg capacity st r plan =
      if (!opponents.all (beats t st r.priority)) = true then .error .refused
      else if capacity < list.length then .error .listFull
      else if r.action = .eject ∧ airWithin cfg.concurrency list written = false then .error .airLimit
      else .ok ⟨list, displaced, written⟩ := by
  subst hbids hopponents hdisplaced
  unfold settleCommit
  simp only [distinct_eq, ← hkept, ← hwritten]
  subst hlist
  rfl

/-- The checks of a commit that was settled, and what they leave. -/
theorem settleCommit_ok {t : List ParticleRecord} {l : List Entry} {cfg : StationSettings} {capacity : Nat}
    {st : StationId} {r : ParticleRecord} {plan : Plan} {x : Settlement}
    (h : settleCommit t l cfg capacity st r plan = .ok x) :
    (∀ n ∈ plan.newcomers, ∀ o ∈ (bidOf cfg l n).opponents, beats t st r.priority o = true) ∧
      x.list = listAfter (withdrawTags t x.displaced l) (plan.newcomers.map (bidOf cfg l)) x.written ∧
      x.written = (plan.newcomers.map (bidOf cfg l)).map (writtenOn t (withdrawTags t x.displaced l)) ∧
      (r.action = .eject → airWithin cfg.concurrency x.list x.written ≠ false) := by
  rw [settleCommit_eq t l cfg capacity st r plan _ _ _ _ _ _ rfl rfl rfl rfl rfl rfl] at h
  split at h
  · cases h
  next beaten =>
    split at h
    · cases h
    · split at h
      · cases h
      next air =>
        cases h
        exact ⟨by simpa [List.all_eq_true] using beaten, rfl, rfl, fun eject within => air ⟨eject, within⟩⟩

/-- A settled commit keeps the air count of every slice within the limit: in a written span by check 7, and elsewhere
because an entry that covers the slice stood on the list before (R98). -/
theorem settled_air {t : List ParticleRecord} {l : List Entry} {cfg : StationSettings} {capacity : Nat}
    {st : StationId} {r : ParticleRecord} {plan : Plan} {x : Settlement}
    (kinds : ∀ n ∈ plan.newcomers, n.kind = r.action) (h : settleCommit t l cfg capacity st r plan = .ok x)
    (before : ∀ slice, airCount l slice ≤ cfg.concurrency) (slice : Nat) : airCount x.list slice ≤ cfg.concurrency := by
  obtain ⟨_, list, written, air⟩ := settleCommit_ok h
  by_cases new : ∃ w ∈ x.written, w.entry.kind = .eject ∧ w.entry.onSlice ≤ slice ∧ slice < w.entry.offSlice
  · obtain ⟨w, mem, eject, on, off⟩ := new
    have action : r.action = .eject := by
      rw [written] at mem
      obtain ⟨bid, hbid, rfl⟩ := List.mem_map.mp mem
      obtain ⟨n, hn, rfl⟩ := List.mem_map.mp hbid
      rw [← kinds n hn, ← eject, writtenOn_kind, bidOf_entry]
    exact airWithin_spec (air action) mem on off
  · refine (airCount_le fun e mem eject on off => ?_).trans (before slice)
    rw [list] at mem
    rcases mem_listAfter mem with ⟨w, hw, rfl⟩ | mem
    · exact absurd ⟨w, hw, eject, on, off⟩ new
    · obtain ⟨f, inList, left, _⟩ := left_of_mem mem
      exact ⟨f, inList, left.kind ▸ eject, left.channel.symm, left.onSlice ▸ on, left.offSlice ▸ off⟩

/-- A settled commit keeps the list in order (R88, R96). -/
theorem settled_order {t : List ParticleRecord} {l : List Entry} {cfg : StationSettings} {capacity : Nat}
    {st : StationId} {r : ParticleRecord} {plan : Plan} {x : Settlement}
    (h : settleCommit t l cfg capacity st r plan = .ok x)
    (before : InListOrder l) : InListOrder x.list := by
  obtain ⟨_, list, _, _⟩ := settleCommit_ok h
  rw [list]
  have places (k : List Entry) : InListOrder k ↔
      (k.map fun e => (e.channel, e.onSlice)).Pairwise fun x y => x.2 < y.2 ∨ x.2 = y.2 ∧ x.1 ≤ y.1 := by
    rw [List.pairwise_map]
    exact Iff.rfl
  exact foldl_insertEntry_order _
    (((places _).mpr (((places l).mp before).sublist (withdrawTags_places t _ l))).filter _)

theorem findRecord_eq (tag : Nat) (t : List ParticleRecord) :
    findRecord tag t = t.find? fun r => decide (r.tag = tag) := by
  unfold findRecord
  congr 1

/-- Settles O20: the relations, the bids, the checks and what they keep. -/
theorem settledCommitKeepsCapacityAndAir : Obligations.SettledCommitKeepsCapacityAndAir := by
  unfold Obligations.SettledCommitKeepsCapacityAndAir
  refine ⟨fun minGap n e hn he => ⟨?_, related_iff he hn minGap⟩, ?_, ?_, airCount_eq, ?_,
    fun t tag => ⟨findRecord_eq tag t, fun st => rfl, fun r found => tagPriority_eq found⟩, ?_⟩
  · exact overlaps_iff he hn
  · intro cfg l n cands lo hi others hcands hlo hhi hothers
    have other (on off : Nat) : otherKind l n on off = others on off := by rw [otherKind_eq, hothers]
    rw [bidOf_eq cfg l n cands hcands]
    simp only [mergeFeasible_iff, other, joinedOn_eq, joinedOff_eq, ← hlo, ← hhi]
  · intro t l cfg capacity st r plan bids opponents kept list displaced left written hbids hopponents hdisplaced hkept
      hleft hwritten hlist
    have leftIs (bid : Bid) : left bid = bid.left kept := by
      rw [hleft]
      refine List.filter_congr fun e _ => ?_
      rw [Bool.eq_iff_iff, any_same_iff, decide_eq_true_eq]
    have writtenIs : written = bids.map (writtenOn t kept) := by
      rw [hwritten]
      refine List.map_congr_left fun bid _ => ?_
      rw [writtenOn_eq, leftIs]
      simp only [tagsWith_eq, joinedOn_eq, joinedOff_eq, joinedState_eq, highestPriority, List.foldl_map]
    have listIs : list = listAfter kept bids written := by
      rw [hlist, listAfter]
      congr 1
      refine List.filter_congr fun e _ => ?_
      rw [Bool.eq_iff_iff, Bool.not_eq_true', List.any_eq_false, decide_eq_true_eq]
      simp only [any_same_iff, not_exists, not_and]
      exact forall₄_congr fun _ _ _ _ => imp_iff_not_or.symm
    rw [settleCommit_eq t l cfg capacity st r plan bids opponents kept list displaced written hbids hopponents
      hdisplaced hkept writtenIs listIs]
    simp only [all_beats_iff, airWithin_eq_false_iff]
  · intro e l behind hbehind
    have is : behind = e.before := by
      funext f
      rw [Bool.eq_iff_iff, hbehind, before_iff]
    rw [insertEntry_split, is]
  · intro t l cfg capacity st r plan x inOrder hinOrder kinds h
    obtain ⟨beaten, _⟩ := settleCommit_ok h
    refine ⟨fun n hn o ho => ?_, settleCommit_capacity h, fun order => ?_, settled_air kinds h⟩
    · obtain ⟨committed, lower, _⟩ := (beats_iff t st r.priority o).mp (beaten n hn o ho)
      exact ⟨committed, lower⟩
    · exact (hinOrder _).mpr (settled_order h ((hinOrder _).mp order))

end Sys2Proof.Machine
end

section
/-! PROOFS. A commit, whole (R78 to R99). -/

namespace Sys2Proof.Machine

/-! ### Check by check -/

theorem effectiveFloor_eq (b : Block) (st : StationId) :
    effectiveFloor b st =
      if (b.settings.stations.get st).kind = .nozzle ∧ b.line.airLow.taken = true then
        max (b.settings.floors.get st).floor (b.settings.floors.get st).lowAir
      else (b.settings.floors.get st).floor := rfl

/-- The slot of a tag ends with an outcome and flags, and nothing else changes (R37, R78). -/
def Block.failSlot (b : Block) (st : StationId) (tag : Nat) (o : SlotOutcome) (f : SlotFlags) : Block :=
  b.setTable (updateSlot tag st (Slot.fail o f) b.track.table)

/-- A slot that is not WAITING is not evaluated (R37). -/
theorem commitAt_not_waiting {b : Block} {st : StationId} {tag : Nat}
    (h : ∀ r sl, findRecord tag b.track.table = some r → r.slots.get st = some sl → sl.state ≠ .waiting) :
    commitAt st tag b = b := by
  unfold commitAt
  cases record : findRecord tag b.track.table with
  | none => rfl
  | some r =>
    cases slot : r.slots.get st with
    | none => simp only [slot]
    | some sl => simp only [slot, if_pos (h r sl record slot)]

section
variable {b : Block} {st : StationId} {tag : Nat} {r : ParticleRecord} {sl : Slot}
  (record : findRecord tag b.track.table = some r) (slot : r.slots.get st = some sl) (waiting : sl.state = .waiting)

include record slot waiting

theorem commitAt_masked (h : (b.station st).state ≠ .armed) :
    commitAt st tag b = b.failSlot st tag .masked SlotFlags.clear := by
  unfold commitAt
  simp only [record, slot, waiting, ne_eq, not_true_eq_false, if_false, if_pos h]
  rfl

theorem commitAt_floored (armed : (b.station st).state = .armed)
    (h : r.action = .eject ∧ r.priority ≤ effectiveFloor b st) :
    commitAt st tag b = b.failSlot st tag .floored SlotFlags.clear := by
  unfold commitAt
  simp only [record, slot, waiting, armed, ne_eq, not_true_eq_false, if_false, if_pos h]
  rfl

/-- Past the first two checks: the plan, the settlement, the application (R78). -/
theorem commitAt_planned (armed : (b.station st).state = .armed)
    (h : ¬ (r.action = .eject ∧ r.priority ≤ effectiveFloor b st)) {pattern : Pattern} {known : Bool}
    (hpattern : (patternAt b.settings r.pattern).getD pattern0 = pattern)
    (hknown : (patternAt b.settings r.pattern).isSome = known) :
    commitAt st tag b =
      match planCommit r (b.config st) pattern known (b.station st).channels b.pos.slice b.pos.v
        b.settings.sliceLength with
      | .error (o, f) => b.failSlot st tag o f
      | .ok plan =>
        match settleCommit b.track.table (b.lists.get st) (b.config st) b.settings.partition.listCapacity st r plan with
        | .error o => b.failSlot st tag o plan.flags
        | .ok x => applyCommit st r plan x b := by
  subst hpattern hknown
  unfold commitAt
  simp only [record, slot, waiting, armed, ne_eq, not_true_eq_false, if_false, if_neg h]
  rfl

end

/-! ### The patterns (R70, R71) -/

theorem patternAt_eq {s : Settings} (h : s.patterns.length = s.partition.ramPatterns) (code : Nat) :
    patternAt s code = if code < 8 then romPatterns[code]? else s.patterns[code - 8]? := by
  unfold patternAt
  by_cases rom : code < 8
  · rw [if_pos rom, if_pos rom]
  · rw [if_neg rom, if_neg rom]
    split
    · rfl
    · exact (List.getElem?_eq_none (by omega)).symm

/-! ### The application (R99) -/

/-- The slots of some tags at a station are changed once. -/
theorem foldl_updateSlot_once (st : StationId) {f : Nat → Slot → Slot} (once : ∀ tag sl, f tag (f tag sl) = f tag sl)
    (tags : List Nat) (t : List ParticleRecord) :
    tags.foldl (fun acc tag => updateSlot tag st (f tag) acc) t =
      t.map fun q => q.updateSlot st fun sl => if q.tag ∈ tags then f q.tag sl else sl := by
  rw [foldl_updateSlot]
  refine List.map_congr_left fun q _ => ?_
  by_cases listed : q.tag ∈ tags
  · simp only [listed, if_true]
    exact congrArg (q.updateSlot st) (funext fun sl => iterate_once (once q.tag) (List.count_pos_iff.mpr listed).ne' sl)
  · simp only [listed, if_false, List.count_eq_zero.mpr listed]
    rfl

theorem updateSlot_eq_map (tag : Nat) (st : StationId) (f : Slot → Slot) (t : List ParticleRecord) :
    updateSlot tag st f t = t.map fun q => q.updateSlot st fun sl => if q.tag = tag then f sl else sl := by
  refine List.map_congr_left fun q _ => ?_
  by_cases h : q.tag = tag
  · simp only [h, if_true]
  · simp only [h, if_false]
    exact (updateSlot_same st q).symm

/-- The records after a commit in one piece: the displaced, the newcomer's, the joined. -/
theorem applyCommit_eq (st : StationId) (r : ParticleRecord) (plan : Plan) (x : Settlement) (b : Block) :
    applyCommit st r plan x b =
      { b with
        lists := b.lists.set st x.list
        track :=
          { b.track with
            table := b.track.table.map fun q => q.updateSlot st fun sl =>
              let displaced := if q.tag ∈ x.displaced then sl.ended .displaced else sl
              let committed :=
                if q.tag = r.tag then displaced.commit plan (tagEntries x.list r.tag) (tagActive x.list r.tag)
                else displaced
              if ∃ w ∈ x.written, w.joined = true ∧ q.tag ∈ w.entry.tags then
                committed.merged
                  (decide (∃ w ∈ x.written, w.joined = true ∧ q.tag ∈ w.entry.tags ∧ w.entry.state.isActive = true))
              else committed } } := by
  have displaced : x.displaced.foldl (fun t tag => updateSlot tag st (Slot.ended .displaced) t) b.track.table =
      b.track.table.map fun q => q.updateSlot st fun sl => if q.tag ∈ x.displaced then sl.ended .displaced else sl :=
    foldl_updateSlot_once st (f := fun _ => Slot.ended .displaced) (fun _ => ended_once _) _ _
  unfold applyCommit
  dsimp only
  rw [displaced, updateSlot_eq_map, foldl_markJoined, List.map_map, List.map_map]
  show { b with lists := _, track := { b.track with table := _ } } = _
  congr 2
  refine congrArg (TrackUnit.mk · b.track.outcomes) ?_
  refine List.map_congr_left fun q _ => ?_
  simp only [Function.comp_apply, updateSlot_twice]
  rfl

theorem tagEntries_eq (l : List Entry) (tag : Nat) : tagEntries l tag = l.countP fun e => tag ∈ e.tags := by
  unfold tagEntries Entry.carries
  simp

theorem tagActive_iff (l : List Entry) (tag : Nat) :
    tagActive l tag = true ↔ ∃ e ∈ l, e.state.isActive = true ∧ tag ∈ e.tags := by
  simp [tagActive, Entry.carries]

theorem merged_eq (active : Prop) [Decidable active] (sl : Slot) :
    sl.merged (decide active) =
      { sl with
        flags := { sl.flags with merged := true }
        state := if sl.state = .committed ∧ active then .active else sl.state } := by
  unfold Slot.merged SlotFlags.markMerged
  congr 1
  simp [and_comm]

/-- Settles O21: the checks in their order, the pattern a code names, and the application in one piece. -/
theorem firstTwoChecksEndTheSlot : Obligations.FirstTwoChecksEndTheSlot := by
  unfold Obligations.FirstTwoChecksEndTheSlot
  refine ⟨fun b st tag h => commitAt_not_waiting h, ?_, ?_, ?_⟩
  · intro b st tag r sl limit fail planned pattern known record slot waiting hlimit hfail hpattern hplanned
    have floor : limit = effectiveFloor b st := by rw [hlimit, effectiveFloor_eq]
    have ends (o : SlotOutcome) (f : SlotFlags) : b.failSlot st tag o f = fail o f := (hfail o f).symm
    refine ⟨fun off => ?_, fun armed => ⟨fun eject low => ?_, fun above => ?_⟩⟩
    · rw [commitAt_masked record slot waiting off, ends]
      rfl
    · rw [commitAt_floored record slot waiting armed ⟨eject, floor ▸ low⟩, ends]
      rfl
    · have passes : ¬ (r.action = .eject ∧ r.priority ≤ effectiveFloor b st) := fun ⟨eject, low⟩ => by
        have := above eject
        omega
      have patternIs : (patternAt b.settings r.pattern).getD pattern0 = pattern := by
        rcases hpattern with ⟨found, _⟩ | ⟨missing, is, _⟩
        · rw [found]
          rfl
        · rw [missing, is]
          rfl
      have knownIs : (patternAt b.settings r.pattern).isSome = known := by
        rcases hpattern with ⟨found, is⟩ | ⟨missing, _, is⟩
        · rw [found, is]
          rfl
        · rw [missing, is]
          rfl
      have whole := commitAt_planned record slot waiting armed passes patternIs knownIs
      rw [← hplanned] at whole
      refine ⟨fun o f failed => ?_, fun plan settled ok hsettled => ?_⟩
      · rw [whole, failed]
        exact ends o f
      · simp only [ok, ← hsettled] at whole
        refine ⟨fun o failed => ?_, fun x passed => ?_⟩
        · rw [whole, failed]
          exact ends o plan.flags
        · rw [whole, passed]
  · intro s code rom whole hrom
    subst hrom
    rw [patternAt_eq whole]
    refine ⟨fun low => by rw [if_pos low]; rfl, fun high => by rw [if_neg (by omega)]⟩
  · intro b st r plan x slotAfter active hactive hslot
    have activeIs : tagActive x.list r.tag = active := by rw [Bool.eq_iff_iff, tagActive_iff, hactive]
    rw [applyCommit_eq]
    congr 2
    refine congrArg (TrackUnit.mk · b.track.outcomes) ?_
    refine List.map_congr_left fun q _ => congrArg (ParticleRecord.updateSlot st · q) (funext fun sl => ?_)
    rw [hslot, activeIs, tagEntries_eq]
    simp only [merged_eq]
    rfl

end Sys2Proof.Machine
end

section
/-! PROOFS. The load, the census in STARTUP and in FAULT, and the settle timer (R113, R129, R134, R144, R170, R176). -/

namespace Sys2Proof.Machine

theorem running_of {b : Block} (h : b.resetting = none) : b.running = true := by rw [Block.running, h]; rfl

/-! ### The load -/

theorem lockAfterReset_eq (cause : ResetCause) (before loaded : LockMode) :
    lockAfterReset cause before loaded =
      if (cause = .resetLine ∨ cause = .restartRequest) ∧ before = .sealed then .sealed else loaded := by
  cases cause <;> simp [lockAfterReset]

/-- Settles O23: the one event, its settings and its lock. -/
theorem loadTakesTheImageOrTheDefaults : Obligations.LoadTakesTheImageOrTheDefaults := by
  unfold Obligations.LoadTakesTheImageOrTheDefaults
  intro s loaded mode run loading sound unsound hmode
  have due : (s.toBlock.running && s.store.loading) = true := by rw [running_of run, loading]; rfl
  have loadedIs : (if s.store.image.sound = true then s.store.image.contents.holdsOff else Settings.factory) = loaded := by
    by_cases h : s.store.image.sound = true
    · rw [if_pos h, sound h]
      rfl
    · rw [if_neg h, (factoryDefaults_iff loaded).mp (unsound (Bool.eq_false_iff.mpr h))]
  have modeIs : lockAfterReset s.line.record.cause s.store.lock loaded.defaultLock = mode := by
    rw [lockAfterReset_eq, hmode]
  have loads : finishLoad s.toBlock =
      { s.toBlock with
        settings := loaded
        line := { s.line with settingsLost := !s.store.image.sound }
        store := { s.store with loading := false, lock := mode, lockCopy := mode }
        chain := { s.chain with census := true } } := by
    unfold finishLoad
    simp only [loadedIs, modeIs]
    rfl
  show eventIf _ s _ = _
  rw [eventIf_due due]
  exact event_out loads rfl

/-! ### The census -/

/-- What sixteen trials found: the same number in all of them, 32 states to each board, or none (R129). -/
def CensusFinds (trials : List (Option Nat)) (boards : Nat) (ok : Bool) : Prop :=
  (ok = true ∧ boards ≤ 4 ∧ trials = List.replicate 16 (some (32 * boards))) ∨
    (ok = false ∧ boards = 0 ∧ ∀ k ≤ 4, trials ≠ List.replicate 16 (some (32 * k)))

theorem censusNumber_replicate {boards : Nat} (h : boards ≤ 4) :
    censusNumber (List.replicate 16 (some (32 * boards))) = some (32 * boards) := by
  have fits : 32 * boards % 32 = 0 ∧ 32 * boards ≤ 128 := by omega
  simp [censusNumber, List.replicate_succ, fits]

theorem censusNumber_some {trials : List (Option Nat)} {n : Nat} (h : censusNumber trials = some n) :
    n % 32 = 0 ∧ n ≤ 128 ∧ trials = List.replicate 16 (some n) := by
  unfold censusNumber at h
  split at h
  next m rest =>
    split at h
    next all =>
      cases h
      obtain ⟨length, same, fits, small⟩ := all
      have rest_eq : rest = List.replicate 15 (some n) :=
        List.eq_replicate_iff.mpr ⟨length, fun t mem => by simpa using List.all_eq_true.mp same t mem⟩
      exact ⟨fits, small, by rw [rest_eq]; rfl⟩
    · cases h
  · cases h
  · cases h

theorem censusNumber_of_finds {trials : List (Option Nat)} {boards : Nat} {ok : Bool} (h : CensusFinds trials boards ok) :
    ((censusNumber trials).getD 0) / 32 = boards ∧ (censusNumber trials).isSome = ok := by
  rcases h with ⟨rfl, few, rfl⟩ | ⟨rfl, rfl, no⟩
  · rw [censusNumber_replicate few]
    exact ⟨Nat.mul_div_cancel_left boards (by decide), rfl⟩
  · cases found : censusNumber trials with
    | none => exact ⟨rfl, rfl⟩
    | some n =>
      obtain ⟨fits, small, is⟩ := censusNumber_some found
      exact absurd (by rw [is]; congr 2; omega) (no (n / 32) (by omega))

/-- The chain unit once a census has found so many boards (R129). -/
def ChainUnit.counted (x : ChainUnit) (boards : Nat) (ok : Bool) (now : Nat) : ChainUnit :=
  { x with boards := boards, censusOk := ok, census := false, refreshStart := some now }

theorem takeCensus_eq {trials : List (Option Nat)} {boards : Nat} {ok : Bool} (h : CensusFinds trials boards ok)
    (b : Block) : takeCensus trials b = b.setChain (b.chain.counted boards ok b.clock) := by
  obtain ⟨count, result⟩ := censusNumber_of_finds h
  unfold takeCensus
  simp only [count, result]
  rfl

theorem exec_censusEnd {s : State} (run : s.resetting = none) (census : s.chain.census = true)
    (trials : List (Option Nat)) : exec (.censusEnd trials) s = event s (finishCensus trials) := by
  have due : (s.toBlock.running && s.chain.census) = true := by rw [running_of run, census]; rfl
  show eventIf _ s _ = _
  exact eventIf_due due s _

theorem reverseFlagAgainst_eq (flag : Bool) (backlash limit : Nat) :
    reverseFlagAgainst flag backlash limit =
      if limit < backlash then true else if backlash = 0 then false else flag := rfl

/-- The line enters a state other than FAULT, in one piece (R133). -/
theorem enterLine_eq {b : Block} {left new : LineState} (cause : LineCause) (h : b.line.state = left)
    (noFault : new ≠ .fault) :
    enterLine new cause b =
      { b with
        line := { b.line with state := new }
        msg := offerReport (.lineNotice left new cause .none) b.msg } := by
  subst h
  unfold enterLine
  rw [if_neg noFault]
  rfl

theorem endStartup_eq {b : Block} (startup : b.line.state = .startup) {new : LineState}
    (hnew : new = if b.line.halt.taken = true then .halt else .standby) :
    endStartup b =
      { b with
        pos :=
          { b.pos.afterStartup b.settings with
            beaconStart := some b.clock, beacon := some (beaconFrame b.pos.x b.pos.v new) }
        intake := { b.intake with ready := true }
        line := { b.line with state := new }
        msg :=
          offerReport (.lineNotice .startup new .start .none)
            (offerReport
              (.start b.line.record.cause b.line.settingsLost b.chain.boards b.chain.censusOk b.settings.partition)
              b.msg) } := by
  have entered : stateAfterStartup b.line.halt.taken = new := hnew.symm
  have noFault : new ≠ .fault := by
    rw [hnew]
    split <;> decide
  unfold endStartup
  dsimp only
  rw [entered, enterLine_eq (left := .startup) .start ?atStartup noFault]
  case atStartup => exact startup
  rfl

/-- Settles O24: the census, then what the end of STARTUP does to each unit. -/
theorem endOfStartupWakesTheBlocks : Obligations.EndOfStartupWakesTheBlocks := by
  unfold Obligations.EndOfStartupWakesTheBlocks
  intro s trials boards ok new run census startup finds hnew
  have finish : finishCensus trials s.toBlock = endStartup (s.toBlock.setChain (s.chain.counted boards ok s.clock)) := by
    unfold finishCensus
    simp only [startup, takeCensus_eq finds]
  rw [endStartup_eq (b := s.toBlock.setChain (s.chain.counted boards ok s.clock)) startup hnew] at finish
  rw [exec_censusEnd run census, event_out finish rfl]
  exact ⟨_, rfl, rfl, rfl, rfl, rfl, rfl, rfl, rfl, rfl, rfl, rfl, rfl, rfl, rfl, rfl, rfl⟩

/-- Settles O25: the census, then the three ends of CLEAR FAULT. -/
theorem clearFaultEndsWithItsCensus : Obligations.ClearFaultEndsWithItsCensus := by
  unfold Obligations.ClearFaultEndsWithItsCensus
  intro s trials boards ok run census fault finds chain hchain
  subst hchain
  have finish : finishCensus trials s.toBlock =
      endClearFault (s.toBlock.setChain (s.chain.counted boards ok s.clock)) := by
    unfold finishCensus
    simp only [fault, takeCensus_eq finds]
  rw [exec_censusEnd run census]
  refine ⟨fun good released quiet => ?_, fun kept hkept barred => ?_⟩
  · subst good
    have clears : endClearFault (s.toBlock.setChain (s.chain.counted boards true s.clock)) =
        { s.toBlock with
          chain := s.chain.counted boards true s.clock
          line := { s.line with state := .standby, fault := .none }
          msg :=
            placeReply 0x80#8 ⟨.ok, byte boards⟩
              (offerReport (.lineNotice .fault .standby .clearFault .none) s.msg) } := by
      unfold endClearFault
      dsimp only
      rw [enterLine_eq (left := .fault) .clearFault ?atFault (by decide)]
      case atFault => exact fault
      simp only [Block.setChain_line, released, quiet]
      rfl
    exact event_out (finish.trans clears) rfl
  · have stays : endClearFault (s.toBlock.setChain (s.chain.counted boards ok s.clock)) =
        { s.toBlock with
          chain := s.chain.counted boards ok s.clock
          line := { s.line with fault := kept }
          msg :=
            placeReply 0x80#8
              ⟨if s.line.halt.taken = true ∨ s.line.haltInCensus = true then .wrongState else .noBoard,
                byte kept.code ++ byte boards⟩ s.msg } := by
      subst hkept
      unfold endClearFault
      dsimp only
      by_cases halted : s.line.halt.taken = true ∨ s.line.haltInCensus = true
      · rw [if_pos halted, if_pos (by simpa using halted)]
        rfl
      · have failed : ok = false := by tauto
        subst failed
        rw [if_neg halted, if_neg (by simpa using halted)]
        rfl
    exact event_out (finish.trans stays) rfl

/-! ### The settle timer -/

/-- Settles O29: the one event of a due settle timer. -/
theorem settledStationIsArmed : Obligations.SettledStationIsArmed := by
  unfold Obligations.SettledStationIsArmed
  intro s st start run arming settle late
  have due : settleDue st s.toBlock = true := by
    have armingIs : (s.toBlock.station st).state = .arming := arming
    have settleIs : (s.toBlock.station st).settle = some start := settle
    unfold settleDue
    simp only [running_of run, armingIs, settleIs, Bool.true_and, BEq.rfl]
    exact reached_iff.mpr late
  have arms : becomeArmed st s.toBlock =
      { s.toBlock with
        stations :=
          s.stations.set st
            { s.stations.get st with
              state := .armed
              settle := none
              channels := (s.stations.get st).channels.map Channel.quiet }
        msg := offerReport (.stationNotice st .arming .armed .settle 0) s.msg } := by
    rw [← arming]
    rfl
  show eventIf _ s _ = _
  rw [eventIf_due due]
  exact event_out arms rfl

end Sys2Proof.Machine
end

section
/-! PROOFS. The sound refresh (R117 to R123, R126, R127, R130): what it stores, and station control's steps one by one. -/

namespace Sys2Proof.Machine

/-! ### The chain unit through a refresh -/

theorem foldl_chain {α : Type} {f : Block → α → Block} (h : ∀ b a, (f b a).chain = b.chain) (l : List α) (b : Block) :
    (l.foldl f b).chain = b.chain := by
  induction l generalizing b with
  | nil => rfl
  | cons a l ih => rw [List.foldl_cons, ih, h]

theorem beginShots_chain (b : Block) : (beginShots b).chain = b.chain := by
  unfold beginShots
  split
  · split <;> rfl
  · split <;> rfl
  · rfl
  · rfl

theorem markSent_chain (b : Block) (st : StationId) : (markSent b st).chain = b.chain := by
  unfold markSent
  split
  · refine foldl_chain ?_ _ b
    exact fun _ _ => rfl
  · rfl

theorem maintenanceChannelFault_chain (st : StationId) (ch : Nat) (b : Block) :
    (maintenanceChannelFault st ch b).chain = b.chain := by
  unfold maintenanceChannelFault
  split
  · split <;> rfl
  · split <;> rfl
  · rfl
  · rfl

theorem channelFault_chain (st : StationId) (ch : Nat) (cause : ChannelFault) (b : Block) :
    (channelFault st ch cause b).chain = b.chain := by
  unfold channelFault
  exact (maintenanceChannelFault_chain st ch _).trans
    (foldl_chain (fun b e => (endEntry_same st false SlotFlags.markDegraded b e).outside.chain) _ _)

theorem confirmCheck_chain (st : StationId) (b : Block) (ch : Nat) : (confirmCheck st b ch).chain = b.chain := by
  unfold confirmCheck
  split
  · rfl
  · split
    · exact channelFault_chain st ch _ b
    · split <;> rfl

theorem timeLimit_chain (st : StationId) (b : Block) : (timeLimit st b).chain = b.chain :=
  foldl_chain (f := cutEntry st) (fun b e => (endEntry_same st true SlotFlags.markCut b e).outside.chain) _ b

theorem stuckCheck_chain (st : StationId) (b : Block) (ch : Nat) : (stuckCheck st b ch).chain = b.chain := by
  unfold stuckCheck
  split
  · split
    · split
      · rfl
      · exact channelFault_chain st ch _ b
    · rfl
  · rfl

theorem stationFault_chain (st : StationId) (b : Block) : (stationFault st b).chain = b.chain := by
  unfold stationFault
  split
  · exact (leaveArmed_spec st _ _ b).1.chain
  · rfl

theorem stationRefresh_chain (b : Block) (st : StationId) : (stationRefresh b st).chain = b.chain := by
  unfold stationRefresh
  split
  · exact (stationFault_chain st _).trans ((foldl_chain (stuckCheck_chain st) _ _).trans
      ((timeLimit_chain st _).trans (foldl_chain (confirmCheck_chain st) _ b)))
  · rfl

theorem calibrationStep_chain (before : Sequencer) (b : Block) : (calibrationStep before b).chain = b.chain := by
  unfold calibrationStep
  split
  · split
    · rfl
    · split
      · dsimp only
        split
        · rfl
        · unfold finishCalibration
          dsimp only
          split <;> rfl
      · rfl
  · rfl

/-! ### The refresh as a whole (R126, R127) -/

theorem refreshMade_iff {b : Block} (run : b.resetting = none) :
    refreshMade b = true ↔ b.line.state ≠ .startup ∧ b.chain.census = false := by
  rw [refreshMade, Bool.and_eq_true, started_iff run, Bool.not_eq_true']

theorem markerWhole_iff (boards : Nat) (ret : List Bool) :
    markerWhole boards ret = true ↔
      (ret.drop (32 * boards)).take 16 = List.replicate 8 true ++ List.replicate 8 false := by
  rw [markerWhole, beq_iff_eq]
  rfl

/-- What a refresh sends, from the shots it begins on. -/
theorem sendRefresh_eq (b : Block) :
    sendRefresh b =
      [0, 1, 2, 3].foldl markSent
        { beginShots b with
          chain := { b.chain with outputs := outputStates (beginShots b), refreshStart := some b.clock } } := by
  rw [← beginShots_chain b, ← (beginShots_kept b).clock]
  rfl

theorem sendRefresh_chain (b : Block) :
    (sendRefresh b).chain =
      { b.chain with outputs := outputStates (beginShots b), refreshStart := some b.clock } := by
  rw [sendRefresh_eq]
  exact foldl_chain markSent_chain _ _

theorem soundRefresh_chain (before : Sequencer) (ret : List Bool) (sent : Block) :
    (soundRefresh before ret sent).chain =
      { sent.chain with feedback := feedbackOf sent.chain.boards ret, chainError := false } :=
  (drainDone_same _).chain.trans ((retireFinished_same _).chain.trans
    ((calibrationStep_chain before _).trans (foldl_chain stationRefresh_chain _ _)))

theorem refresh_sound {b : Block} {ret : List Bool} (run : b.resetting = none) (past : b.line.state ≠ .startup)
    (census : b.chain.census = false)
    (whole : (ret.drop (32 * b.chain.boards)).take 16 = List.replicate 8 true ++ List.replicate 8 false) :
    refresh ret b = soundRefresh b.maint ret (sendRefresh b) := by
  unfold refresh
  rw [if_pos ((refreshMade_iff run).mpr ⟨past, census⟩), if_pos ((markerWhole_iff _ ret).mpr whole)]

/-- A due REFRESH_TIMER_EXPIRY is a refresh (R126). -/
theorem exec_refreshTimerExpiry {s : State} {ret : List Bool} {start : Nat} (run : s.resetting = none)
    (past : s.line.state ≠ .startup) (census : s.chain.census = false) (timer : s.chain.refreshStart = some start)
    (late : start + 100 ≤ s.clock) :
    exec (.refreshTimerExpiry ret) s =
      .next
        { s with
          toBlock := { refresh ret s.toBlock with msg := startSending s.clock (refresh ret s.toBlock).msg } } := by
  have due : refreshDue s.toBlock = true := by
    unfold refreshDue
    rw [(refreshMade_iff run).mpr ⟨past, census⟩, timer]
    exact reached_iff.mpr late
  show eventIf _ s _ = _
  rw [eventIf_due due]
  exact event_out rfl (refresh_kept ret s.toBlock).clock

/-! ### Station control's steps on a channel (R117 to R120) -/

theorem channelAt_of_get {l : List Channel} {ch : Nat} {z : Channel} (h : l[ch]? = some z) : channelAt l ch = z := by
  rw [channelAt, List.getD_eq_getElem?_getD, h]
  rfl

theorem updateChannel_of_get {b : Block} {st : StationId} {ch : Nat} {z : Channel} {f : Channel → Channel}
    (h : (b.stations.get st).channels[ch]? = some z) :
    updateChannel st ch f b =
      { b with
        stations :=
          b.stations.set st
            { b.stations.get st with channels := (b.stations.get st).channels.set ch (f z) } } := by
  rw [updateChannel_eq, modifyAt_eq_set f h]

theorem confirm_eq (ch : Nat) (e : Entry) :
    Entry.confirm ch e =
      match e.state with
      | .active t _ => if e.channel = ch ∧ e.kind = .eject then { e with state := .active t true } else e
      | .committed => e := by
  unfold Entry.confirm Entry.drives
  cases state : e.state with
  | committed => simp [EntryState.isActive]
  | active t confirmed => simp [EntryState.isActive]

theorem stuckCounts_iff {b : Block} {st : StationId} {ch : Nat} {z : Channel}
    (h : (b.stations.get st).channels[ch]? = some z) :
    stuckCounts b st ch = true ↔
      b.chain.feedback.getD ((b.settings.stations.get st).firstOutput + ch) false = true ∧
        b.chain.outputs.getD ((b.settings.stations.get st).firstOutput + ch) false = false ∧
        ∀ t, z.lastOn = some t → (b.settings.stations.get st).confirmWindow < b.clock - t := by
  have at_ch : channelAt (b.station st).channels ch = z := channelAt_of_get h
  unfold stuckCounts
  rw [at_ch, Bool.and_eq_true, Bool.and_eq_true, Bool.not_eq_true', and_assoc]
  refine and_congr_right fun _ => and_congr_right fun _ => ?_
  cases z.lastOn with
  | none => simp
  | some t => exact ⟨fun late u is => Option.some.inj is ▸ of_decide_eq_true late, fun all => decide_eq_true (all t rfl)⟩

theorem channelOk_of_get {b : Block} {st : StationId} {ch : Nat} {z : Channel}
    (h : (b.stations.get st).channels[ch]? = some z) : channelOk b st ch = true ↔ z.fault = none := by
  have at_ch : channelAt (b.station st).channels ch = z := channelAt_of_get h
  rw [channelOk, at_ch, Option.isNone_iff_eq_none]

/-! ### Entries ended at a station -/

theorem foldl_endEntry_parts (st : StationId) (completed : Bool) (mark : SlotFlags → SlotFlags) (l : List Entry)
    (b : Block) : ∃ lists track, l.foldl (endEntry st completed mark) b = { b with lists := lists, track := track } := by
  induction l generalizing b with
  | nil => exact ⟨b.lists, b.track, rfl⟩
  | cons e l ih =>
    obtain ⟨lists, track, h⟩ := ih (endEntry st completed mark b e)
    exact ⟨lists, track, by rw [List.foldl_cons, h, endEntry_eq st completed mark b e rfl]⟩

/-- Ends of entries change the list of their station and the table, and nothing else. -/
theorem foldl_endEntry_eq (st : StationId) (completed : Bool) (mark : SlotFlags → SlotFlags) (l : List Entry)
    (b : Block) :
    l.foldl (endEntry st completed mark) b =
      { b with
        lists := (l.foldl (endEntry st completed mark) b).lists
        track := (l.foldl (endEntry st completed mark) b).track } := by
  obtain ⟨lists, track, h⟩ := foldl_endEntry_parts st completed mark l b
  rw [h]

/-- Ends of entries take no notice of the stations. -/
theorem foldl_endEntry_setStations (st : StationId) (completed : Bool) (mark : SlotFlags → SlotFlags) (l : List Entry)
    (x : Four Station) (b : Block) :
    l.foldl (endEntry st completed mark) (b.setStations x) = (l.foldl (endEntry st completed mark) b).setStations x := by
  induction l generalizing b with
  | nil => rfl
  | cons e l ih => exact ih (endEntry st completed mark b e)

theorem mem_entriesOnChannel {l : List Entry} {ch : Nat} {e : Entry} :
    e ∈ entriesOnChannel l ch ↔ e ∈ l ∧ e.channel = ch := by
  unfold entriesOnChannel
  cases active : e.state.isActive <;> simp [active]

theorem entriesOnChannel_eq (l : List Entry) (ch : Nat) :
    entriesOnChannel l ch =
      l.filter (fun e => e.channel = ch ∧ e.state.isActive = true) ++
        l.filter (fun e => e.channel = ch ∧ e.state.isActive = false) := by
  unfold entriesOnChannel
  dsimp only
  rw [List.filter_filter, List.filter_filter]
  congr 1
  · refine List.filter_congr fun e _ => ?_
    rw [Bool.eq_iff_iff]
    simp [and_comm]
  · refine List.filter_congr fun e _ => ?_
    rw [Bool.eq_iff_iff]
    simp [and_comm]

/-- The list without the entries of one channel. -/
theorem endOnChannel_lists (st : StationId) (completed : Bool) (mark : SlotFlags → SlotFlags) (ch : Nat) (b : Block) :
    ((entriesOnChannel (b.lists.get st) ch).foldl (endEntry st completed mark) b).lists =
      b.lists.set st ((b.lists.get st).filter fun e => e.channel ≠ ch) := by
  rw [foldl_endEntry_lists]
  congr 1
  refine List.filter_congr fun f inList => ?_
  rw [decide_eq_decide]
  constructor
  · intro apart same
    rcases apart f (mem_entriesOnChannel.mpr ⟨inList, same⟩) with no | no <;> exact no rfl
  · intro other e mem
    exact .inl fun same => other (same ▸ (mem_entriesOnChannel.mp mem).2)

/-! ### A channel becomes FAULTED (R120, R130) -/

/-- What the sequencer makes of a channel fault, in one piece (R177, R180). -/
theorem maintenanceChannelFault_eq (st : StationId) (ch : Nat) (b : Block) :
    maintenanceChannelFault st ch b =
      { b with
        maint :=
          match b.maint with
          | .purging p => if shotOn b st ch = true then .purging { p with phase := .gap b.clock } else b.maint
          | .calibrating k => if k.station = st ∧ k.channel = ch then .idle else b.maint
          | .suspended _ => b.maint
          | .idle => b.maint
        msg :=
          match b.maint with
          | .calibrating k =>
            if k.station = st ∧ k.channel = ch then
              offerReport (.done .calibrate .failed (some st) (some ch) 0) b.msg
            else b.msg
          | .purging _ => b.msg
          | .suspended _ => b.msg
          | .idle => b.msg } := by
  unfold maintenanceChannelFault
  cases maint : b.maint with
  | idle => simp only [← maint]
  | suspended p => simp only [← maint]
  | purging p =>
    dsimp only
    split
    · rfl
    · simp only [← maint]
  | calibrating k =>
    dsimp only
    split
    next here =>
      obtain ⟨rfl, rfl⟩ := here
      rfl
    · simp only [← maint]

theorem tallyFault_eq (cause : ChannelFault) (x : Station) :
    x.tallyFault cause =
      { x with
        noConfirm := if cause = .noConfirm then bump x.noConfirm else x.noConfirm
        stuck := if cause = .stuck then bump x.stuck else x.stuck } := by
  cases cause <;> rfl

theorem channelFault_eq (st : StationId) (ch : Nat) (cause : ChannelFault) (b : Block) {z : Channel}
    (h : (b.stations.get st).channels[ch]? = some z) :
    channelFault st ch cause b =
      { b with
        stations :=
          b.stations.set st
            { b.stations.get st with
              channels :=
                (b.stations.get st).channels.set ch { z with fault := some cause, confirm := none, stuck := 0 }
              noConfirm :=
                if cause = .noConfirm then bump (b.stations.get st).noConfirm else (b.stations.get st).noConfirm
              stuck := if cause = .stuck then bump (b.stations.get st).stuck else (b.stations.get st).stuck }
        lists := b.lists.set st ((b.lists.get st).filter fun e => e.channel ≠ ch)
        track :=
          ((entriesOnChannel (b.lists.get st) ch).foldl (endEntry st false SlotFlags.markDegraded) b).track
        maint := (maintenanceChannelFault st ch b).maint
        msg := offerReport (.channelNotice st ch cause) (maintenanceChannelFault st ch b).msg } := by
  have marked : updateChannel st ch (Channel.fail cause) b = b.setStations _ := updateChannel_of_get h
  have ended := endOnChannel_lists st false SlotFlags.markDegraded ch b
  unfold channelFault
  dsimp only
  rw [marked, Block.setStations_lists, foldl_endEntry_setStations, foldl_endEntry_eq, ended]
  generalize ((entriesOnChannel (b.lists.get st) ch).foldl (endEntry st false SlotFlags.markDegraded) b).track = track
  rw [maintenanceChannelFault_eq, maintenanceChannelFault_eq st ch b]
  simp only [Block.setStation, Block.setStations, Block.station, Four.get_set, if_true, Four.set_set, tallyFault_eq]
  rfl

/-! ### The time limit (R123) -/

/-- An entry cut by the time limit adds to the station's tally. -/
theorem foldl_cutEntry (st : StationId) (l : List Entry) (b : Block) :
    l.foldl (cutEntry st) b =
      (l.foldl (endEntry st true SlotFlags.markCut) b).setStations
        (b.stations.set st { b.stations.get st with cut := bump^[l.length] (b.stations.get st).cut }) := by
  induction l generalizing b with
  | nil =>
    show b = { b with stations := b.stations.set st (b.stations.get st) }
    rw [Four.set_get]
  | cons e l ih =>
    have one : cutEntry st b e =
        (endEntry st true SlotFlags.markCut b e).setStations
          (b.stations.set st { b.stations.get st with cut := bump (b.stations.get st).cut }) := by
      unfold cutEntry
      rw [endEntry_eq st true _ b e rfl]
      rfl
    rw [List.foldl_cons, ih, one, foldl_endEntry_setStations, List.foldl_cons]
    simp only [Block.setStations, Four.get_set, if_true, Four.set_set, List.length_cons, Function.iterate_succ_apply]

theorem overTime_iff (now limit : Nat) (e : Entry) :
    e.overTime now limit = true ↔
      match e.state with
      | .active t _ => e.kind = .eject ∧ limit < now - t
      | .committed => False := by
  unfold Entry.overTime
  cases e.kind <;> cases e.state <;> simp

theorem timeLimit_eq (st : StationId) (b : Block) :
    timeLimit st b =
      (((b.lists.get st).filter (Entry.overTime b.clock (b.config st).maxOnTime)).foldl
        (endEntry st true SlotFlags.markCut) b).setStations
        (b.stations.set st
          { b.stations.get st with
            cut :=
              bump^[((b.lists.get st).filter (Entry.overTime b.clock (b.config st).maxOnTime)).length]
                (b.stations.get st).cut }) :=
  foldl_cutEntry st _ b

/-! ### The station fault (R115, R121) -/

theorem allFaulted_iff (b : Block) (st : StationId) :
    allFaulted b st = true ↔ ∀ ch, ch < (b.settings.stations.get st).channels → channelOk b st ch = false := by
  simp [allFaulted, channelNumbers, Block.config]

theorem abandonMaintenance_whole (st : StationId) (b : Block) :
    abandonMaintenance st b = { b with maint := b.maintWithout st, msg := offerAll (b.abandonedReports st) b.msg } := by
  obtain ⟨maint, msg, is⟩ := abandonMaintenance_eq st b
  obtain ⟨reports, sequencer⟩ := abandonMaintenance_reports st b
  rw [is] at reports sequencer ⊢
  have maintIs : maint = b.maintWithout st := sequencer
  have msgIs : msg = offerAll (b.abandonedReports st) b.msg := reports
  rw [maintIs, msgIs]
  rfl

theorem holdCount_setHolds (st : StationId) (b : Block) : holdCount st (setHolds st b) = holdCount st b := by
  show List.countP _ (List.map _ b.settings.routes) = _
  rw [List.countP_map]
  unfold holdCount
  congr 1
  funext e
  simp only [Function.comp]
  split <;> rfl

/-- A station that faults, in one piece: its records retire at the end of the refresh (R115, log 17). -/
theorem leaveArmed_faulted (st : StationId) (cause : StationCause) (b : Block) :
    leaveArmed st .faulted cause b =
      { b with
        lists := b.lists.set st []
        track := { b.track with table := b.track.table.map (ParticleRecord.updateSlot st Slot.stationLeft) }
        settings := (setHolds st b).settings
        stations := b.stations.set st ((b.stations.get st).left .faulted)
        maint := b.maintWithout st
        msg :=
          offerAll (b.abandonedReports st ++ [.stationNotice st .armed .faulted cause (holdCount st b)]) b.msg } := by
  have names : holdCount st (abandonMaintenance st (setHolds st (withdrawStation st b))) = holdCount st b := by
    rw [abandonMaintenance_whole]
    exact holdCount_setHolds st b
  have reports : (setHolds st (withdrawStation st b)).abandonedReports st = b.abandonedReports st := rfl
  unfold leaveArmed
  dsimp only
  rw [if_pos rfl, names, abandonMaintenance_whole, reports, offerAll_append]
  rfl

/-! ### The statement -/

section
variable {b : Block} {st : StationId} {ch : Nat} {z : Channel} (h : (b.stations.get st).channels[ch]? = some z)

include h

/-- A confirm timer that runs: expired, or answered by the feedback, or still waiting (R117, R118). -/
theorem confirmCheck_of_timer {start : Nat} (timer : z.confirm = some start) :
    confirmCheck st b ch =
      if (b.settings.stations.get st).confirmWindow < b.clock - start then channelFault st ch .noConfirm b
      else if b.chain.feedback.getD ((b.settings.stations.get st).firstOutput + ch) false = true then
        updateChannel st ch (fun c => { c with confirm := none }) (b.setList st ((b.lists.get st).map (Entry.confirm ch)))
      else b := by
  have at_ch : channelAt (b.station st).channels ch = z := channelAt_of_get h
  unfold confirmCheck
  rw [at_ch, timer]
  rfl

theorem confirmCheck_idle (timer : z.confirm = none) : confirmCheck st b ch = b := by
  have at_ch : channelAt (b.station st).channels ch = z := channelAt_of_get h
  unfold confirmCheck
  rw [at_ch, timer]

/-- What a confirmed channel changes: its timer, and its ACTIVE EJECT entries (R117). -/
theorem confirmed_eq :
    updateChannel st ch (fun c => { c with confirm := none })
        (b.setList st ((b.lists.get st).map (Entry.confirm ch))) =
      { b with
        stations :=
          b.stations.set st
            { b.stations.get st with channels := (b.stations.get st).channels.set ch { z with confirm := none } }
        lists :=
          b.lists.set st
            ((b.lists.get st).map fun e =>
              match e.state with
              | .active t _ => if e.channel = ch ∧ e.kind = .eject then { e with state := .active t true } else e
              | .committed => e) } := by
  have at_ch : ((b.setList st ((b.lists.get st).map (Entry.confirm ch))).stations.get st).channels[ch]? = some z := h
  rw [updateChannel_of_get at_ch, show Entry.confirm ch = _ from funext (confirm_eq ch)]
  rfl

theorem stuckCheck_faulted (fault : z.fault ≠ none) : stuckCheck st b ch = b := by
  unfold stuckCheck
  rw [if_neg (mt (channelOk_of_get h).mp fault)]

theorem stuckCheck_limit (fault : z.fault = none) (counts : stuckCounts b st ch = true) (limit : 2 ≤ z.stuck) :
    stuckCheck st b ch = channelFault st ch .stuck b := by
  have at_ch : channelAt (b.station st).channels ch = z := channelAt_of_get h
  unfold stuckCheck
  rw [if_pos ((channelOk_of_get h).mpr fault), if_pos counts, at_ch, if_neg (by omega)]

theorem stuckCheck_below (fault : z.fault = none) (below : stuckCounts b st ch = false ∨ z.stuck < 2) :
    stuckCheck st b ch =
      { b with
        stations :=
          b.stations.set st
            { b.stations.get st with
              channels :=
                (b.stations.get st).channels.set ch
                  { z with stuck := if stuckCounts b st ch = true then z.stuck + 1 else 0 } } } := by
  have at_ch : channelAt (b.station st).channels ch = z := channelAt_of_get h
  unfold stuckCheck
  rw [if_pos ((channelOk_of_get h).mpr fault)]
  cases counts : stuckCounts b st ch with
  | false => exact updateChannel_of_get h
  | true =>
    have low : z.stuck < 2 := by simpa [counts] using below
    rw [if_pos rfl, if_pos (at_ch ▸ low)]
    exact updateChannel_of_get h

end

/-- The sound refresh, part by part. -/
theorem refresh_stores {b begun sent stored out : Block} {ret : List Bool} (run : b.resetting = none)
    (past : b.line.state ≠ .startup) (census : b.chain.census = false)
    (whole : (ret.drop (32 * b.chain.boards)).take 16 = List.replicate 8 true ++ List.replicate 8 false)
    (hbegun : begun = beginShots b)
    (hsent : sent =
      [0, 1, 2, 3].foldl markSent
        { begun with chain := { b.chain with outputs := outputStates begun, refreshStart := some b.clock } })
    (hstored : stored =
      { sent with
        chain :=
          { b.chain with
            outputs := outputStates begun
            feedback := ret.take (32 * b.chain.boards) ++ List.replicate (128 - 32 * b.chain.boards) false
            chainError := false
            refreshStart := some b.clock } })
    (hout : out = drainDone (retireFinished (calibrationStep b.maint ([0, 1, 2, 3].foldl stationRefresh stored)))) :
    refresh ret b = out ∧ out.chain = stored.chain := by
  subst hbegun
  have sentIs : sendRefresh b = sent := by rw [hsent, sendRefresh_eq]
  have chainIs : sent.chain = { b.chain with outputs := outputStates (beginShots b), refreshStart := some b.clock } :=
    sentIs ▸ sendRefresh_chain b
  have storedIs : stored =
      sent.setChain { sent.chain with feedback := feedbackOf sent.chain.boards ret, chainError := false } := by
    rw [hstored, chainIs]
    rfl
  have made : soundRefresh b.maint ret sent = out := by
    rw [hout, storedIs]
    rfl
  refine ⟨by rw [refresh_sound run past census whole, sentIs, made], ?_⟩
  rw [← made, soundRefresh_chain, storedIs]
  rfl

/-- Settles O26: the refresh as a whole, then each of station control's steps. -/
theorem soundRefreshStoresTheFeedback : Obligations.SoundRefreshStoresTheFeedback := by
  unfold Obligations.SoundRefreshStoresTheFeedback
  refine ⟨?_, fun b ret h => refresh_none h ret, ?_, ?_, ?_, ?_⟩
  · intro b ret begun sent stored out run past census whole hbegun hsent hstored hout
    obtain ⟨is, chain⟩ := refresh_stores run past census whole hbegun hsent hstored hout
    have kept := refresh_kept ret b
    rw [is] at kept
    exact ⟨is, chain, kept.pos, kept.intake, kept.ranks, kept.store, kept.clock⟩
  · intro s ret start out run past census timer late hout
    subst hout
    exact exec_refreshTimerExpiry run past census timer late
  · intro b st x c hx hc
    subst hx hc
    refine ⟨fun idle => ⟨markSent_idle idle, if_neg idle⟩, fun armed => ⟨markSent_armed armed, ?_⟩⟩
    have armedIs : (b.station st).state = .armed := armed
    unfold stationRefresh
    rw [if_pos armedIs]
    rfl
  · intro b st ch x c z hx hc hz
    subst hx hc
    refine ⟨confirmCheck_idle hz, fun start timer => ⟨fun expired => ?_, fun inTime => ⟨fun off => ?_, fun on => ?_⟩⟩, ?_, ?_⟩
    · rw [confirmCheck_of_timer hz timer, if_pos expired]
    · rw [confirmCheck_of_timer hz timer, if_neg (by omega), if_neg (by rw [off]; exact Bool.false_ne_true)]
    · rw [confirmCheck_of_timer hz timer, if_neg (by omega), if_pos on]
      exact confirmed_eq hz
    · intro counts hcounts
      have countsIs : stuckCounts b st ch = counts := by rw [Bool.eq_iff_iff, hcounts, stuckCounts_iff hz]
      subst countsIs
      exact ⟨stuckCheck_faulted hz, stuckCheck_limit hz, stuckCheck_below hz⟩
    · intro cause left l ended shot hl hended hleft hshot
      subst hl hleft hshot
      rw [channelFault_eq st ch cause b hz, entriesOnChannel_eq, ← hended, maintenanceChannelFault_eq]
      rfl
  · intro b st x c hx hc
    subst hx hc
    refine ⟨fun old hold => ?_, fun ⟨ch, inRange, ok⟩ => ?_, fun all => ?_⟩
    · have oldIs : (b.lists.get st).filter (Entry.overTime b.clock (b.config st).maxOnTime) = old := by
        rw [hold]
        refine List.filter_congr fun e _ => ?_
        rw [Bool.eq_iff_iff, overTime_iff]
        cases e.state with
        | committed => simp
        | active t confirmed => simp [Block.config]
      rw [timeLimit_eq, oldIs, foldl_endEntry_eq, foldl_endEntry_lists]
      rfl
    · unfold stationFault
      rw [if_neg fun faulted => by simp [(allFaulted_iff b st).mp faulted ch inRange] at ok]
    · unfold stationFault
      rw [if_pos ((allFaulted_iff b st).mpr all), leaveArmed_faulted,
        show Slot.stationLeft = _ from funext stationLeft_eq]
      rfl

end Sys2Proof.Machine
end

section
/-! PROOFS. The refresh whose marker fails (R126, R128), and what the output states are (R125). -/

namespace Sys2Proof.Machine

/-! ### What is sent changes timers and the sequencer's progress alone -/

/-- Nothing that a stop of the line reads differs. -/
structure Block.OnlyTimers (b c : Block) : Prop where
  line : c.line = b.line
  track : c.track = b.track
  lists : c.lists = b.lists
  settings : c.settings = b.settings
  msg : c.msg = b.msg
  state : ∀ st, (c.stations.get st).state = (b.stations.get st).state
  abandoned : ∀ st, c.abandonedReports st = b.abandonedReports st

theorem Block.OnlyTimers.refl (b : Block) : b.OnlyTimers b := ⟨rfl, rfl, rfl, rfl, rfl, fun _ => rfl, fun _ => rfl⟩

theorem Block.OnlyTimers.trans {a b c : Block} (h : a.OnlyTimers b) (k : b.OnlyTimers c) : a.OnlyTimers c :=
  ⟨k.line.trans h.line, k.track.trans h.track, k.lists.trans h.lists, k.settings.trans h.settings, k.msg.trans h.msg,
    fun st => (k.state st).trans (h.state st), fun st => (k.abandoned st).trans (h.abandoned st)⟩

theorem Block.OnlyTimers.foldl {α : Type} {f : Block → α → Block}
    (h : ∀ (b : Block) (a : α), b.OnlyTimers (f b a)) (l : List α) (b : Block) :
    b.OnlyTimers (l.foldl f b) := by
  induction l generalizing b with
  | nil => exact .refl b
  | cons a l ih => exact (h b a).trans (ih _)

theorem channelAt_modify (f : Channel → Channel) (keeps : ∀ c, (f c).fault = c.fault) (l : List Channel) (i ch : Nat) :
    (channelAt (modifyAt f i l) ch).fault = (channelAt l ch).fault := by
  unfold channelAt
  rw [modifyAt_eq_mapIdx, List.getD_eq_getElem?_getD, List.getD_eq_getElem?_getD, List.getElem?_mapIdx]
  cases l[ch]? with
  | none => rfl
  | some c =>
    simp only [Option.map_some, Option.getD_some]
    split
    · exact keeps c
    · rfl

/-- A change of one channel that keeps its fault changes no state and no count of faulted channels. -/
theorem updateChannel_stations (st : StationId) (ch : Nat) {f : Channel → Channel} (keeps : ∀ c, (f c).fault = c.fault)
    (b : Block) (other : StationId) :
    ((updateChannel st ch f b).stations.get other).state = (b.stations.get other).state ∧
      faultedCount (updateChannel st ch f b) other = faultedCount b other := by
  have one : (updateChannel st ch f b).stations.get other =
      if other = st then { b.stations.get st with channels := modifyAt f ch (b.stations.get st).channels }
      else b.stations.get other := Four.get_set _ _ _ _
  refine ⟨?_, faultedCount_congr rfl fun j => ?_⟩
  · rw [one]
    split
    next same => rw [same]
    · rfl
  · unfold channelOk Block.station
    rw [one]
    split
    next same => rw [channelAt_modify f keeps, same]
    · rfl

/-- Two blocks with the same sequencer and the same counts of faulted channels report an abandoned run alike. -/
theorem abandonedReports_congr {b c : Block} (maint : c.maint = b.maint)
    (faults : ∀ st, faultedCount c st = faultedCount b st) (st : StationId) :
    c.abandonedReports st = b.abandonedReports st := by
  unfold Block.abandonedReports
  rw [maint, faults]

theorem updateChannel_timers (st : StationId) (ch : Nat) {f : Channel → Channel} (keeps : ∀ c, (f c).fault = c.fault)
    (b : Block) : b.OnlyTimers (updateChannel st ch f b) :=
  ⟨rfl, rfl, rfl, rfl, rfl, fun other => (updateChannel_stations st ch keeps b other).1,
    abandonedReports_congr rfl fun other => (updateChannel_stations st ch keeps b other).2⟩

theorem beginShots_timers (b : Block) : b.OnlyTimers (beginShots b) := by
  have confirm (c : Channel) : (c.startConfirm b.clock).fault = c.fault := by
    rw [startConfirm_eq]
    split <;> rfl
  unfold beginShots
  split
  next p purging =>
    split
    · have begun : b.OnlyTimers (b.setMaint (.purging { p with phase := .shot b.clock })) :=
        ⟨rfl, rfl, rfl, rfl, rfl, fun _ => rfl, fun st => by unfold Block.abandonedReports; rw [purging]; rfl⟩
      exact begun.trans (updateChannel_timers _ _ confirm _)
    · exact .refl b
    · exact .refl b
  next c calibrating =>
    split
    · have begun : b.OnlyTimers
          (b.setMaint (.calibrating { c with lastStart := some b.clock, shot := some b.clock })) :=
        ⟨rfl, rfl, rfl, rfl, rfl, fun _ => rfl, fun st => by unfold Block.abandonedReports; rw [calibrating]; rfl⟩
      exact begun.trans (updateChannel_timers _ _ confirm _)
    · exact .refl b
  · exact .refl b
  · exact .refl b

theorem markSent_timers (b : Block) (st : StationId) : b.OnlyTimers (markSent b st) := by
  unfold markSent
  split
  · refine Block.OnlyTimers.foldl (fun c ch => ?_) _ b
    refine updateChannel_timers st ch ?_ c
    exact fun _ => rfl
  · exact .refl b

theorem setChain_timers (x : ChainUnit) (b : Block) : b.OnlyTimers { b with chain := x } :=
  ⟨rfl, rfl, rfl, rfl, rfl, fun _ => rfl, fun _ => rfl⟩

theorem sendRefresh_timers (b : Block) : b.OnlyTimers (sendRefresh b) := by
  rw [sendRefresh_eq]
  exact ((beginShots_timers b).trans (setChain_timers _ _)).trans (Block.OnlyTimers.foldl markSent_timers _ _)

/-! ### A stop forgets what was marked -/

theorem map_mapIdx_of {α β : Type} {f : Nat → α → α} {g : α → β} (h : ∀ i a, g (f i a) = g a) (l : List α) :
    (l.mapIdx f).map g = l.map g := by
  apply List.ext_getElem?
  intro j
  rw [List.getElem?_map, List.getElem?_map, List.getElem?_mapIdx]
  cases l[j]? <;> simp [h]

/-- The marks of a refresh are gone once the line has stopped. -/
theorem markSent_stopped (b : Block) (s st : StationId) :
    ((markSent b s).stations.get st).stopped = (b.stations.get st).stopped := by
  by_cases armed : (b.stations.get s).state = .armed
  · rw [markSent_armed armed]
    simp only [Four.get_set]
    split
    next same =>
      subst same
      unfold Station.stopped
      simp only [armed, Station.mk.injEq, true_and, and_true]
      refine map_mapIdx_of (fun i ch => ?_) _
      split <;> rfl
    · rfl
  · rw [markSent_idle armed]

theorem foldl_markSent_stopped (l : List StationId) (b : Block) (st : StationId) :
    ((l.foldl markSent b).stations.get st).stopped = (b.stations.get st).stopped := by
  induction l generalizing b with
  | nil => rfl
  | cons s l ih => rw [List.foldl_cons, ih, markSent_stopped]

theorem markSent_maint (b : Block) (st : StationId) : (markSent b st).maint = b.maint := by
  by_cases armed : (b.stations.get st).state = .armed
  · rw [markSent_armed armed]
  · rw [markSent_idle armed]

theorem foldl_markSent_maint (l : List StationId) (b : Block) : (l.foldl markSent b).maint = b.maint := by
  induction l generalizing b with
  | nil => rfl
  | cons s l ih => rw [List.foldl_cons, ih, markSent_maint]

theorem sendRefresh_stopped (b : Block) (st : StationId) :
    ((sendRefresh b).stations.get st).stopped = ((beginShots b).stations.get st).stopped := by
  rw [sendRefresh_eq, foldl_markSent_stopped]

theorem sendRefresh_maint (b : Block) : (sendRefresh b).maint = (beginShots b).maint := by
  rw [sendRefresh_eq, foldl_markSent_maint]

/-! ### The failed refresh (R128) -/

theorem refresh_failed {b : Block} {ret : List Bool} (run : b.resetting = none) (past : b.line.state ≠ .startup)
    (census : b.chain.census = false)
    (lost : (ret.drop (32 * b.chain.boards)).take 16 ≠ List.replicate 8 true ++ List.replicate 8 false) :
    refresh ret b = failedRefresh (sendRefresh b) := by
  unfold refresh
  rw [if_pos ((refreshMade_iff run).mpr ⟨past, census⟩), if_neg (mt (markerWhole_iff _ ret).mp lost)]

theorem chain_taken {l : LineState} (past : l ≠ .startup) : faultTaken .chain l = true ↔ l ≠ .fault := by
  cases l <;> simp [faultTaken] at past ⊢

/-- A line fault of a block, in the state that is this block after it. -/
theorem lineFault_whole {f : FaultCause} {b : Block} {t : State} (shaped : b.Shaped)
    (taken : faultTaken f b.line.state = true) (h : t.toBlock = lineFault f b) :
    t.line = { b.line with state := .fault, fault := f } ∧ LineStopped b t ∧ t.chain = b.chain ∧
      t.msg = offerAll (b.stopReports .fault ++ [.lineNotice b.line.state .fault f.lineCause f]) b.msg := by
  have enable (st : StationId) := shaped.quiet st
  obtain ⟨line, _, _, _, _, _, chain, _, _⟩ := lineFault_spec f b taken enable
  obtain ⟨stopped, queued⟩ := lineFault_stopped taken enable rfl rfl rfl rfl t (lineFault f b).msg
  have whole : { t with toBlock := (lineFault f b).setMsg (lineFault f b).msg } = t := by
    show { t with toBlock := lineFault f b } = t
    rw [← h]
  rw [whole] at stopped
  rw [← h] at line chain queued
  exact ⟨line, stopped, chain, queued⟩

/-- CHAIN handed over from any state but FAULT: everything of R143, as the shots that began leave it. -/
theorem failedRefresh_stops {b : Block} {t : State} (shaped : b.Shaped) (past : b.line.state ≠ .startup)
    (moving : b.line.state ≠ .fault) (h : t.toBlock = failedRefresh (sendRefresh b)) :
    t.line = { b.line with state := .fault, fault := .chain } ∧ LineStopped (beginShots b) t ∧
      t.chain = { (sendRefresh b).chain with chainError := true } ∧
      t.msg = offerAll (b.stopReports .fault ++ [.lineNotice b.line.state .fault .chain .chain]) b.msg := by
  have sent := sendRefresh_timers b
  have begun := beginShots_timers b
  have sentShaped := shaped.of_subsides (sendRefresh_subsides b)
  have fromBegun := stop_alike (fun st => (sent.state st).trans (begun.state st).symm) (sent.track.trans begun.track.symm)
    (sent.settings.trans begun.settings.symm)
  have reports := (stop_alike sent.state sent.track sent.settings).1 sent.abandoned .fault
  have maint := sendRefresh_maint b
  have stations := sendRefresh_stopped b
  unfold failedRefresh at h
  generalize sendRefresh b = c at *
  obtain ⟨_, outcomes, sequencer, held⟩ := fromBegun
  have marked : (c.setChain { c.chain with chainError := true }).Shaped :=
    sentShaped.setChain sentShaped.boards sentShaped.outputs sentShaped.feedback
  have taken : faultTaken .chain c.line.state = true := by
    rw [sent.line]
    exact (chain_taken past).mpr moving
  obtain ⟨line, stopped, chain, queued⟩ := lineFault_whole marked taken h
  refine ⟨?_, ⟨stopped.stopped, fun st => ?_, ?_, ?_, ?_⟩, chain, ?_⟩
  · rw [line, Block.setChain_line, sent.line]
  · exact (stopped.stations st).trans (stations st)
  · exact stopped.settings.trans held
  · exact stopped.outcomes.trans outcomes
  · exact stopped.maint.trans (sequencer maint)
  · rw [queued, Block.setChain_line, sent.line, Block.setChain_msg, sent.msg, ← reports]
    rfl

theorem failedRefresh_inFault {b : Block} (inFault : b.line.state = .fault) :
    failedRefresh (sendRefresh b) =
      (sendRefresh b).setChain { (sendRefresh b).chain with chainError := true } := by
  unfold failedRefresh
  refine lineFault_not ?_
  rw [Block.setChain_line, (sendRefresh_timers b).line, inFault]
  rfl

/-- Settles O27: the failed refresh in FAULT and outside it, and the timer's command. -/
theorem failedRefreshFaultsTheLine : Obligations.FailedRefreshFaultsTheLine := by
  unfold Obligations.FailedRefreshFaultsTheLine
  refine ⟨?_, ?_⟩
  · intro b begun sent ret t shaped run past census lost hbegun hsent h
    subst hbegun
    have sentIs : sendRefresh b = sent := by rw [hsent, sendRefresh_eq]
    have timers := sendRefresh_timers b
    have kept : b.Kept t.toBlock := h ▸ refresh_kept ret b
    have sentChain := sendRefresh_chain b
    have marks := sendRefresh_maint b
    rw [refresh_failed run past census lost] at h
    by_cases inFault : b.line.state = .fault
    · rw [failedRefresh_inFault inFault] at h
      refine ⟨?_, kept.pos, kept.intake, kept.ranks, kept.store, kept.clock, fun _ => ?_, fun no => absurd inFault no⟩
      · rw [h, Block.setChain_chain, sentChain]
      · subst sentIs
        rw [h]
        generalize sendRefresh b = c at *
        exact ⟨timers.line, timers.track, timers.lists, timers.settings, rfl, marks, timers.msg⟩
    · obtain ⟨line, stopped, chain, queued⟩ := failedRefresh_stops shaped past inFault h
      rw [sentChain] at chain
      exact ⟨chain, kept.pos, kept.intake, kept.ranks, kept.store, kept.clock, fun yes => absurd yes inFault,
        fun _ => ⟨line, stopped, queued⟩⟩
  · intro s ret start out run past census timer late hout
    subst hout
    exact exec_refreshTimerExpiry run past census timer late

/-! ### The output states (R125) -/

theorem mem_allStations (st : StationId) : st ∈ allStations := by fin_cases st <;> decide

theorem ownsOutput_iff (c : StationSettings) (o : Nat) :
    ownsOutput c o = true ↔ c.kind ≠ .none ∧ ∃ ch, ch < c.channels ∧ o = c.firstOutput + ch := by
  simp only [ownsOutput, Bool.and_eq_true, bne_iff_ne, decide_eq_true_eq, and_assoc]
  refine and_congr_right fun _ => ⟨fun ⟨low, high⟩ => ⟨o - c.firstOutput, by omega, by omega⟩, ?_⟩
  rintro ⟨ch, inRange, rfl⟩
  omega

theorem commanded_iff (l : List Entry) (ch : Nat) :
    commanded l ch = true ↔ ∃ e ∈ l, e.channel = ch ∧ e.kind = .eject ∧ e.state.isActive = true := by
  simp [commanded, Entry.drives, and_assoc]

theorem channelDriven_iff (b : Block) (st : StationId) (ch : Nat) :
    channelDriven b st ch = true ↔
      (b.station st).state = .armed ∧ channelOk b st ch = true ∧
        (((b.line.state = .run ∨ b.line.state = .draining) ∧
            ∃ e ∈ b.lists.get st, e.channel = ch ∧ e.kind = .eject ∧ e.state.isActive = true) ∨
          (b.line.state = .standby ∧ shotOn b st ch = true)) := by
  unfold channelDriven
  rw [Bool.and_eq_true, Bool.and_eq_true, beq_iff_eq, and_assoc, ← commanded_iff]
  refine and_congr_right fun _ => and_congr_right fun _ => ?_
  cases b.line.state <;> simp

theorem outputState_iff (b : Block) (o : Nat) :
    outputState b o = true ↔
      o < 32 * b.chain.boards ∧
        ∃ st ch, (b.config st).kind ≠ .none ∧ ch < (b.config st).channels ∧ o = (b.config st).firstOutput + ch ∧
          channelDriven b st ch = true := by
  simp only [outputState, Bool.and_eq_true, decide_eq_true_eq, List.any_eq_true, ownsOutput_iff]
  refine and_congr_right fun _ => exists_congr fun st => ?_
  constructor
  · rintro ⟨_, ⟨kind, ch, inRange, rfl⟩, driven⟩
    exact ⟨ch, kind, inRange, rfl, by rwa [Nat.add_sub_cancel_left] at driven⟩
  · rintro ⟨ch, kind, inRange, rfl, driven⟩
    exact ⟨mem_allStations st, ⟨kind, ch, inRange, rfl⟩, by rwa [Nat.add_sub_cancel_left]⟩

theorem shotOn_iff (b : Block) (st : StationId) (ch : Nat) :
    shotOn b st ch = true ↔
      (∃ (p : Purge) (start : Nat),
          b.maint = .purging p ∧ p.station = st ∧ p.channel = ch ∧ p.phase = .shot start) ∨
        ∃ (k : Calibration) (start : Nat),
          b.maint = .calibrating k ∧ k.station = st ∧ k.channel = ch ∧ k.shot = some start := by
  unfold shotOn
  cases b.maint with
  | idle => simp
  | suspended p => simp
  | purging p => cases phase : p.phase <;> simp [phase]
  | calibrating k => simp [Option.isSome_iff_exists, and_assoc]

/-- Settles O28: each of the definitions an output state is made of. -/
theorem outputsAreOnOnlyWhereCommanded : Obligations.OutputsAreOnOnlyWhereCommanded := by
  unfold Obligations.OutputsAreOnOnlyWhereCommanded
  refine ⟨fun b o => ?_, fun b => ⟨outputStates_length b, fun o inRange => ?_⟩, fun b st => ?_, shotOn_iff⟩
  · simp only [outputState_iff, channelDriven_iff]
  · rw [outputStates, List.getElem?_map, List.getElem?_range inRange]
    rfl
  · refine ⟨rfl, rfl, fun ch c h => channelOk_of_get h, allFaulted_iff b st, ?_⟩
    rw [faultedCount, List.countP_eq_length_filter]
    rfl

end Sys2Proof.Machine
end

section
/-! PROOFS. The plant inputs (R135, R139 to R142, R144). -/

namespace Sys2Proof.Machine

theorem running_iff (b : Block) : b.running = true ↔ b.resetting = none := by
  rw [Block.running, Option.isNone_iff_eq_none]

theorem levelChange_eq (b : Block) (level : Bool) (f : PlantFilter) :
    f.levelChange b.running b.clock level =
      if level = f.level then f
      else { f with level := level, since := if b.resetting = none ∧ level ≠ f.taken then some b.clock else none } := by
  have counting : (b.running && level != f.taken) = true ↔ b.resetting = none ∧ level ≠ f.taken := by
    rw [Bool.and_eq_true, running_iff, bne_iff_ne]
  unfold PlantFilter.levelChange
  simp only [counting]

/-- Settles O30: the filter of each input. -/
theorem levelChangeStartsTheFilter : Obligations.LevelChangeStartsTheFilter := by
  unfold Obligations.LevelChangeStartsTheFilter
  intro s current after hafter
  have is (level : Bool) (f : PlantFilter) : f.levelChange s.toBlock.running s.clock level = after level f := by
    rw [hafter]
    exact levelChange_eq s.toBlock level f
  refine ⟨?_, ?_, ?_⟩ <;> rw [← is] <;> rfl

/-- The time of a level that differs from the taken state has passed (R139). -/
theorem filter_due {f : PlantFilter} {b : Block} {level : Bool} {start : Nat} (run : b.resetting = none)
    (h : f = ⟨level, !level, some start⟩) (late : start + 1000 ≤ b.clock) : f.due b = true := by
  subst h
  have differs : (level != !level) = true := by cases level <;> rfl
  unfold PlantFilter.due
  simp only [running_of run, differs, Bool.true_and]
  exact reached_iff.mpr late

theorem takeHalt_eq {b : Block} {level taken : Bool} {since : Option Nat} (filter : b.line.halt = ⟨level, taken, since⟩) :
    onInput .halt PlantFilter.takeLevel b = b.setLine { b.line with halt := ⟨level, level, none⟩ } := by
  show b.setLine { b.line with halt := b.line.halt.takeLevel } = _
  rw [filter]
  rfl

/-- Settles O31: the taken assertion, and the stop it makes. -/
theorem haltStopsTheLine : Obligations.HaltStopsTheLine := by
  unfold Obligations.HaltStopsTheLine
  intro s start shaped run filter late acts
  have due : (s.line.halt.due s.toBlock && s.line.halt.level) = true := by
    rw [filter_due run filter late, filter]
    rfl
  have acting : haltActs s.toBlock.line.state = true := by
    rcases acts with state | state | state <;> rw [state] <;> rfl
  have asserts : assertHalt s.toBlock = haltLine (onInput .halt PlantFilter.takeLevel s.toBlock) := by
    unfold assertHalt
    rw [if_pos acting]
  rw [takeHalt_eq filter] at asserts
  have stop (m : MessageUnit) := haltLine_stopped (b := s.toBlock)
    (c := s.toBlock.setLine { s.line with halt := ⟨true, true, none⟩ }) (fun st => shaped.quiet st) rfl rfl rfl rfl s m
  obtain ⟨_, line, kept, chain, queued⟩ := stop s.msg
  refine ⟨_, (eventIf_due due s _).trans (event_next s _), ?_⟩
  rw [asserts]
  generalize haltLine (s.toBlock.setLine { s.line with halt := ⟨true, true, none⟩ }) = c at *
  refine ⟨line, (stop _).1, ?_, kept.pos, kept.intake, kept.ranks, chain, kept.store⟩
  show startSending c.clock c.msg = _
  rw [kept.clock, queued]
  rfl

/-- The event of a due input. -/
theorem input_event {s : State} {due : Bool} {f : Block → Block} {line : LineControl} {msg : MessageUnit}
    (isDue : due = true) (h : f s.toBlock = { s.toBlock with line := line, msg := msg }) :
    eventIf due s f = .next { s with line := line, msg := startSending s.clock msg } := by
  rw [eventIf_due isDue]
  exact event_out h rfl

theorem assertHalt_quiet {b : Block} (quiet : b.line.state = .startup ∨ b.line.state = .halt ∨ b.line.state = .fault) :
    assertHalt b =
      { b with
        line :=
          { b.line with
            halt := b.line.halt.takeLevel
            haltInCensus :=
              if b.line.state = .fault ∧ b.chain.census = true then true else b.line.haltInCensus } } := by
  have idle : ¬ haltActs b.line.state = true := by
    rcases quiet with state | state | state <;> rw [state] <;> decide
  have noted : (b.line.haltInCensus || (b.chain.census && b.line.state == .fault)) =
      if b.line.state = .fault ∧ b.chain.census = true then true else b.line.haltInCensus := by
    rw [Bool.eq_iff_iff]
    split
    next both => simp [both]
    next one => simp; tauto
  unfold assertHalt
  rw [if_neg idle, ← noted]
  rfl

/-- Settles O32: each taken change by its own event. -/
theorem takenInputsChangeTheirState : Obligations.TakenInputsChangeTheirState := by
  unfold Obligations.TakenInputsChangeTheirState
  intro s start level run late
  refine ⟨fun filter quiet => ?_, fun filter => ⟨fun inHalt => ?_, fun apart => ?_⟩, fun filter => ?_, fun filter => ?_⟩
  · have due : (s.line.halt.due s.toBlock && s.line.halt.level) = true := by
      rw [filter_due run filter late, filter]
      rfl
    refine (input_event due (assertHalt_quiet quiet)).trans ?_
    rw [filter]
    rfl
  · have due : (s.line.halt.due s.toBlock && !s.line.halt.level) = true := by
      rw [filter_due run filter late, filter]
      rfl
    refine input_event (line := { s.line with state := .standby, halt := ⟨false, false, none⟩ })
      (msg := offerReport (.lineNotice .halt .standby .haltRelease .none) s.msg) due ?_
    unfold releaseHalt
    rw [takeHalt_eq filter]
    dsimp only
    rw [if_pos inHalt, enterLine_eq (left := .halt) .haltRelease ?atHalt (by decide)]
    case atHalt => exact inHalt
    rfl
  · have due : (s.line.halt.due s.toBlock && !s.line.halt.level) = true := by
      rw [filter_due run filter late, filter]
      rfl
    refine input_event (line := { s.line with halt := ⟨false, false, none⟩ }) (msg := s.msg) due ?_
    unfold releaseHalt
    rw [takeHalt_eq filter]
    dsimp only
    rw [if_neg apart]
    rfl
  · refine input_event (line := { s.line with airLow := ⟨level, level, none⟩ }) (msg := s.msg)
      (filter_due run filter late) ?_
    show s.toBlock.setLine { s.line with airLow := s.line.airLow.takeLevel } = _
    rw [filter]
    rfl
  · refine input_event (line := { s.line with key := ⟨level, level, none⟩ }) (msg := s.msg)
      (filter_due run filter late) ?_
    show s.toBlock.setLine { s.line with key := s.line.key.takeLevel } = _
    rw [filter]
    rfl

end Sys2Proof.Machine
end

section
/-! PROOFS. The control link's receiver (R150 to R152). -/

namespace Sys2Proof.Machine

section
variable {now last : Nat} {v : Byte} {bytes : List Byte} {m : MessageUnit} {stop : Bool}

theorem examineControl_seeking (h : m.receiver = .seeking) :
    examineControl now v stop m =
      if stop = true ∧ v = 0xC5#8 then { m with receiver := .inFrame [] now } else m := by
  simp [examineControl, h, Receiver.late, syncByte]

theorem examineControl_inFrame (h : m.receiver = .inFrame bytes last) (intime : now ≤ last + 2000) :
    examineControl now v stop m =
      if stop = true then controlInFrame now (bytes ++ [v]) m else discardControl LinkTallies.byteErrors m := by
  have timely : ¬ m.receiver.late Config.controlGap now = true := by
    rw [h, late_inFrame_iff]
    simp only [Config.controlGap]
    omega
  unfold examineControl
  dsimp only
  rw [if_neg timely, h]

theorem controlInFrame_badLength {rest : List Byte} (h : 250 < v.toNat) :
    controlInFrame now (v :: rest) m = discardControl LinkTallies.lengthErrors m := by
  unfold controlInFrame
  rw [field_head]
  exact if_pos h

section
variable {len : Byte} (good : len.toNat ≤ 250)

include good

/-- Behind a good length byte a byte before the last check byte is collected (R150). -/
theorem controlInFrame_collect {rest : List Byte} (few : rest.length ≤ len.toNat + 2) :
    controlInFrame now (len :: rest) m = { m with receiver := .inFrame (len :: rest) now } := by
  unfold controlInFrame
  rw [field_head]
  dsimp only
  rw [if_neg (by simp only [Config.largestPayload]; omega), if_pos (by simp only [List.length_cons]; omega)]

/-- The last check byte completes the frame, which is good where the check value agrees (R151, R152). -/
theorem controlInFrame_complete {kind low high : Byte} {p : List Byte} (size : p.length = len.toNat) :
    controlInFrame now (len :: kind :: p ++ [low] ++ [high]) m =
      if crcBytes (len :: kind :: p) = [low, high] then offerFrame ⟨kind, p⟩ m
      else discardControl LinkTallies.checkErrors m := by
  have front : len :: kind :: p ++ [low] ++ [high] = (len :: kind :: p) ++ [low, high] := by simp
  have whole : (len :: kind :: p).length = len.toNat + 2 := by simp [size]
  have covered : (len :: kind :: p ++ [low] ++ [high]).take (len.toNat + 2) = len :: kind :: p := by
    rw [front, ← whole, List.take_left]
  have check : (len :: kind :: p ++ [low] ++ [high]).drop (len.toNat + 2) = [low, high] := by
    rw [front, ← whole, List.drop_left]
  have first : field (len :: kind :: p ++ [low] ++ [high]) 0 1 = len.toNat := field_head _ _
  unfold controlInFrame
  dsimp only
  rw [first, covered, check, if_neg (by simp only [Config.largestPayload]; omega), if_neg]
  · rfl
  · simp [size]

end

end

/-- A CONTROL_BYTE outside a reset is what the receiver makes of it (R150). -/
theorem exec_controlByte {s : State} {v : Byte} {stop : Bool} {m : MessageUnit} (run : s.resetting = none)
    (h : examineControl s.clock v stop s.msg = m) :
    exec (.controlByte v stop) s = .next { s with msg := startSending s.clock m } := by
  show eventIf _ s _ = _
  rw [eventIf_due (running_of run), event_next, h]
  rfl

/-- Settles O33: the receiver's cases that keep a frame. -/
theorem goodControlFrameJoinsTheBuffer : Obligations.GoodControlFrameJoinsTheBuffer := by
  unfold Obligations.GoodControlFrameJoinsTheBuffer
  intro s run
  refine ⟨fun v stop seeking => exec_controlByte run (examineControl_seeking seeking),
    fun v len bytes rest last inFrame intime split good few => ?_,
    fun len kind low high p last inFrame intime size good check => ?_⟩
  · refine exec_controlByte run ?_
    rw [examineControl_inFrame inFrame intime, if_pos rfl, split]
    exact controlInFrame_collect good few
  · refine exec_controlByte run ?_
    rw [examineControl_inFrame inFrame intime, if_pos rfl, controlInFrame_complete good size, if_pos check]
    rfl

/-- Settles O34: the four discards. -/
theorem badControlFrameIsDiscarded : Obligations.BadControlFrameIsDiscarded := by
  unfold Obligations.BadControlFrameIsDiscarded
  intro s bytes last out run inFrame hout
  refine ⟨fun late => ?_, fun intime => ⟨fun v => ?_, fun v first long => ?_,
    fun len kind low v p split size good differs => ?_⟩⟩
  · have due : (s.toBlock.running && s.msg.receiver.late Config.controlGap s.clock) = true := by
      simp [running_of run, inFrame, late_inFrame_iff, Config.controlGap, late]
    rw [hout]
    exact eventIf_due due s _
  · rw [hout]
    refine exec_controlByte run ?_
    rw [examineControl_inFrame inFrame intime]
    rfl
  · rw [hout]
    refine exec_controlByte run ?_
    subst first
    rw [examineControl_inFrame inFrame intime, if_pos rfl, List.nil_append, controlInFrame_badLength long]
    rfl
  · rw [hout]
    refine exec_controlByte run ?_
    rw [examineControl_inFrame inFrame intime, if_pos rfl, split, controlInFrame_complete good size, if_neg differs]
    rfl

end Sys2Proof.Machine
end

section
/-! PROOFS. The transmitter, the report queue and the reports' frames (R147, R155, R156, R163 to R165). -/

namespace Sys2Proof.Machine

/-! ### Layouts of unsigned fields one after another -/

/-- Fields of the sizes and values given, one after another. -/
def layoutBytes (l : List (Nat × Nat)) : List Byte := l.flatMap fun x => le x.1 x.2

/-- The offsets of such fields, the first at `start`. -/
def layoutFields (start : Nat) : List (Nat × Nat) → List (Nat × Nat × Nat)
  | [] => []
  | x :: l => (start, x.1, x.2) :: layoutFields (start + x.1) l

theorem layoutBytes_cons (x : Nat × Nat) (l : List (Nat × Nat)) : layoutBytes (x :: l) = le x.1 x.2 ++ layoutBytes l :=
  List.flatMap_cons

theorem carries_layout (l : List (Nat × Nat)) (front back : List Byte) :
    Carries (front ++ (layoutBytes l ++ back)) (layoutFields front.length l) := by
  induction l generalizing front with
  | nil => exact carries_nil _
  | cons x l ih =>
    rw [layoutBytes_cons, layoutFields, carries_cons]
    constructor
    · intro fits
      rw [field_append_right _ _ _ _ (Nat.le_refl _), Nat.sub_self, List.append_assoc, field_le_here _ _ _ fits]
    · have rest := ih (front ++ le x.1 x.2)
      simpa using rest

theorem carries_subset {bytes : List Byte} {fields some : List (Nat × Nat × Nat)} (h : Carries bytes fields)
    (sub : ∀ f ∈ some, f ∈ fields) : Carries bytes some := fun f mem => h f (sub f mem)

/-- A payload laid out from its start. -/
theorem carries_of_layout {bytes back : List Byte} {l : List (Nat × Nat)} (h : bytes = layoutBytes l ++ back)
    {fields : List (Nat × Nat × Nat)} (sub : ∀ f ∈ fields, f ∈ layoutFields 0 l) : Carries bytes fields := by
  have whole := carries_layout l [] back
  rw [List.nil_append] at whole
  exact carries_subset (h ▸ whole) sub

theorem layoutBytes_length (l : List (Nat × Nat)) : (layoutBytes l).length = (l.map (·.1)).sum := by
  simp [layoutBytes, List.length_flatMap]

theorem layoutFields_append (start : Nat) (l k : List (Nat × Nat)) :
    layoutFields start (l ++ k) = layoutFields start l ++ layoutFields (start + (l.map (·.1)).sum) k := by
  induction l generalizing start with
  | nil => rfl
  | cons x l ih => simp [layoutFields, ih, Nat.add_assoc]

/-- A payload that is such a layout and nothing more. -/
theorem layout_spec {bytes : List Byte} {l : List (Nat × Nat)} (h : bytes = layoutBytes l)
    {fields : List (Nat × Nat × Nat)} {n : Nat} (size : (l.map (·.1)).sum = n)
    (sub : ∀ f ∈ fields, f ∈ layoutFields 0 l) : bytes.length = n ∧ Carries bytes fields :=
  ⟨by rw [h, layoutBytes_length, size], carries_of_layout (h.trans (List.append_nil _).symm) sub⟩

/-! ### The report queue (R163 to R165) -/

theorem offerReport_room {m : MessageUnit} (room : m.reports.length < 32) (body : ReportBody) :
    offerReport body m =
      { m with nextReport := (m.nextReport + 1) % 65536, reports := m.reports ++ [⟨m.nextReport, body⟩] } :=
  if_pos room

section
variable {m : MessageUnit} (full : 32 ≤ m.reports.length) {body : ReportBody}

include full

theorem offerReport_resultDropped (result : body.isResult = true) :
    offerReport body m =
      { m with
        nextReport := (m.nextReport + 1) % 65536
        tallies := { m.tallies with resultDropped := bump m.tallies.resultDropped } } := by
  unfold offerReport
  dsimp only
  rw [if_neg (by simp only [Config.reportCapacity]; omega), if_pos result]

theorem offerReport_dropped (plain : body.isResult = false) (noResult : ∀ q ∈ m.reports, q.body.isResult = false) :
    offerReport body m =
      { m with
        nextReport := (m.nextReport + 1) % 65536
        tallies := { m.tallies with reportDropped := bump m.tallies.reportDropped } } := by
  unfold offerReport
  dsimp only
  rw [if_neg (by simp only [Config.reportCapacity]; omega), if_neg (by simp [plain]), oldestResult_none noResult]

theorem offerReport_displaced (plain : body.isResult = false) {before after : List Report} {q : Report}
    (queue : m.reports = before ++ q :: after) (result : q.body.isResult = true)
    (first : ∀ e ∈ before, e.body.isResult = false) :
    offerReport body m =
      { m with
        nextReport := (m.nextReport + 1) % 65536
        reports := before ++ after ++ [⟨m.nextReport, body⟩]
        reply := m.reply.map fun w => if before.length < w.ahead then { w with ahead := w.ahead - 1 } else w
        tallies := { m.tallies with resultDisplaced := bump m.tallies.resultDisplaced } } := by
  have oldest : oldestResult m.reports = some before.length := by rw [queue, oldestResult_some first result]
  have rest : m.reports.eraseIdx before.length = before ++ after := by
    rw [queue, List.eraseIdx_append_of_length_le (Nat.le_refl _), Nat.sub_self, List.eraseIdx_cons_zero]
  unfold offerReport
  dsimp only
  rw [if_neg (by simp only [Config.reportCapacity]; omega), if_neg (by simp [plain]), oldest]
  dsimp only
  rw [rest]
  rfl

end

theorem isResult_iff (body : ReportBody) : body.isResult = true ↔ ∃ tag cls slots, body = .result tag cls slots := by
  cases body <;> simp [ReportBody.isResult]

/-! ### The send order (R156) -/

section
variable {m : MessageUnit} (free : m.sending = none) (now : Nat)

include free

theorem startSending_idle (none_waits : m.reports = []) (noReply : m.reply = none) : startSending now m = m := by
  simp [startSending, free, noReply, sendReport, none_waits]

theorem startSending_reply {w : WaitingReply} (reply : m.reply = some w) (first : w.ahead = 0 ∨ m.reports = []) :
    startSending now m =
      { m with
        reply := none
        sending := some ⟨.reply w.restart, w.bytes, now⟩
        tallies := { m.tallies with replies := bump m.tallies.replies } } := by
  have turn : (w.ahead = 0 || m.reports.isEmpty) = true := by simpa using first
  unfold startSending
  rw [free]
  dsimp only
  rw [reply]
  exact if_pos turn

theorem startSending_report {q : Report} {rest : List Report} (queue : m.reports = q :: rest)
    (before : ∀ w, m.reply = some w → 0 < w.ahead) :
    startSending now m =
      { m with
        reports := rest
        reply := m.reply.map fun w => { w with ahead := w.ahead - 1 }
        sending := some ⟨.report, reportFrame q, now⟩
        tallies := { m.tallies with reports := bump m.tallies.reports } } := by
  have next : sendReport now m =
      { m with
        reports := rest
        reply := m.reply.map (·.afterRemoval 0)
        sending := some ⟨.report, reportFrame q, now⟩
        tallies := { m.tallies with reports := bump m.tallies.reports } } := by
    unfold sendReport
    rw [queue]
  unfold startSending
  rw [free]
  dsimp only
  cases reply : m.reply with
  | none =>
    rw [next, reply]
    rfl
  | some w =>
    have ahead := before w reply
    have later : ¬ (w.ahead = 0 || m.reports.isEmpty) = true := by
      simp only [queue, List.isEmpty_cons, Bool.or_false, decide_eq_true_eq]
      omega
    have moved : w.afterRemoval 0 = { w with ahead := w.ahead - 1 } := if_pos ahead
    dsimp only
    rw [if_neg later, next, reply, Option.map_some, Option.map_some, moved]

end

theorem placeReply_eq (m : MessageUnit) (kind : Byte) (status : Status) (items : List Byte) :
    placeReply kind ⟨status, items⟩ m =
      { m with
        reply :=
          some ⟨replyFrame kind ⟨status, items⟩, m.reports.length, decide (kind = 0x81#8 ∧ status = .ok)⟩ } := by
  have restart : (kind == 0x81#8 && status == .ok) = decide (kind = 0x81#8 ∧ status = .ok) := by
    rw [Bool.eq_iff_iff]
    simp
  unfold placeReply
  rw [restart]

/-! ### The end of a transmission (R147, R153, R156) -/

/-- What a cause of a reset leaves, where the message unit and the reset line are as given (R145, R146, R148). -/
theorem resetBegun_of_toBlock {s t : State} {cause : ResetCause} {m : MessageUnit} {line : Bool}
    (h : t.toBlock = (beginReset cause (s.toBlock.setMsg m)).setResetLine line) :
    ResetBegun s t (recordAfter cause s.toBlock) (copyAfter cause s.store.lockCopy) (progressAfter cause s.toBlock) := by
  have blank := beginReset_blank cause (s.toBlock.setMsg m)
  exact
    { blank := by rw [h]; exact { blank with }
      resetting := congrArg Block.resetting h
      record := congrArg (·.line.record) h
      halt := congrArg (·.line.halt) h
      airLow := congrArg (·.line.airLow) h
      key := congrArg (·.line.key) h
      store := congrArg Block.store h
      clock := by rw [h]; rfl
      lines := ⟨by rw [h]; rfl, by rw [h]; rfl⟩ }

section
variable {b : Block} {x : Sending} (sending : b.msg.sending = some x)

include sending

theorem finishSending_report (report : x.role = .report) :
    finishSending b = b.setMsg { b.msg with sending := none } := by
  unfold finishSending
  rw [sending]
  dsimp only
  rw [report]

theorem finishSending_reply {restart : Bool} (reply : x.role = .reply restart) :
    finishSending b =
      if restart = true then beginReset .restartRequest (b.setMsg { b.msg with sending := none, inHand := none })
      else b.setMsg { b.msg with sending := none, inHand := none } := by
  unfold finishSending
  rw [sending]
  dsimp only
  rw [reply]

end

theorem exec_transmitComplete {s : State} {x : Sending} {out : Block} (run : s.resetting = none)
    (sending : s.msg.sending = some x) (late : x.start + 10 * x.bytes.length ≤ s.clock)
    (h : finishSending s.toBlock = out) (time : out.clock = s.clock) :
    exec .transmitComplete s = .next { s with toBlock := { out with msg := startSending s.clock out.msg } } := by
  have due : transmitDue s.toBlock = true := by
    unfold transmitDue
    rw [running_of run, sending]
    exact reached_iff.mpr late
  show eventIf _ s _ = _
  rw [eventIf_due due]
  exact event_out h time

/-! ### The reports' frames (chapter 11 section 5) -/

/-- The payload of a report. -/
def reportPayload (number : Nat) (body : ReportBody) : List Byte := le 2 number ++ body.items

theorem reportFrame_eq (number : Nat) (body : ReportBody) :
    reportFrame ⟨number, body⟩ = controlFrame body.kind (reportPayload number body) := rfl

theorem reportPayload_carries (number : Nat) (body : ReportBody) :
    Carries (reportPayload number body) [(0, 2, number)] :=
  carries_of_layout (l := [(2, number)]) (back := body.items) (by simp [reportPayload, layoutBytes])
    (by simp [layoutFields])

theorem flags_code_eq (f : SlotFlags) :
    f.code =
      flagCode f.late + 2 * flagCode f.truncated + 4 * flagCode f.merged + 8 * flagCode f.cut +
        16 * flagCode f.degraded := by
  simp only [SlotFlags.code, bitsValue]
  omega

/-- One station's two bytes of a RESULT as fields. -/
def resultSlotFields (x : Option (SlotOutcome × SlotFlags)) : List (Nat × Nat) :=
  match x with
  | none => [(1, 255), (1, 0)]
  | some (o, f) => [(1, o.code), (1, f.code)]

theorem resultSlotBytes_eq (x : Option (SlotOutcome × SlotFlags)) :
    resultSlotBytes x = layoutBytes (resultSlotFields x) := by
  cases x with
  | none => decide
  | some x => simp [resultSlotBytes, resultSlotFields, layoutBytes, byte]

theorem resultSlotFields_size (x : Option (SlotOutcome × SlotFlags)) : ((resultSlotFields x).map (·.1)).sum = 2 := by
  cases x <;> rfl

/-- The fields of a report's payload, its number first (chapter 11 section 5). -/
def reportFields (number : Nat) (body : ReportBody) : List (Nat × Nat) :=
  (2, number) ::
    match body with
    | .start cause lost boards census part =>
      [(1, cause.code), (1, flagCode lost), (1, boards), (1, flagCode census), (1, part.code)]
    | .result tag cls slots => (2, tag) :: (1, cls) :: slots.toList.flatMap resultSlotFields
    | .lineNotice left entered cause fault =>
      [(1, 0), (1, left.code), (1, entered.code), (1, cause.code), (1, fault.code), (1, 0)]
    | .stationNotice st left entered cause holds =>
      [(1, 1), (1, st.val), (1, left.code), (1, entered.code), (1, cause.code), (1, holds)]
    | .channelNotice st channel cause => [(1, 2), (1, st.val), (1, channel), (1, cause.code), (2, 0)]
    | .done work ending station count latency =>
      [(1, work.code), (1, ending.code), (1, (station.map Fin.val).getD 255), (1, count.getD 255), (3, latency)]

theorem reportPayload_eq (number : Nat) (body : ReportBody) :
    reportPayload number body = layoutBytes (reportFields number body) := by
  have absent : [0xFF#8] = byte 255 := by decide
  have spare : byte 0 ++ byte 0 = le 2 0 := by decide
  unfold reportPayload reportFields ReportBody.items
  rw [layoutBytes_cons]
  refine congrArg (le 2 number ++ ·) ?_
  cases body with
  | result tag cls slots =>
    simp [layoutBytes, byte, List.flatMap_assoc, funext resultSlotBytes_eq]
  | channelNotice st channel cause => simp [layoutBytes, ← spare, byte]
  | done work ending station count latency =>
    rw [absent]
    cases station <;> cases count <;> simp [layoutBytes, byte]
  | _ => simp [layoutBytes, byte]

/-- The two fields of each station stand in turn behind the first five bytes of a RESULT. -/
theorem resultSlot_mem (number tag cls : Nat) (slots : Four (Option (SlotOutcome × SlotFlags))) (st : StationId) :
    ∀ f ∈ layoutFields (5 + 2 * st.val) (resultSlotFields (slots.get st)),
      f ∈ layoutFields 0 (reportFields number (.result tag cls slots)) := by
  have turns : slots.toList.flatMap resultSlotFields =
      resultSlotFields (slots.get 0) ++ (resultSlotFields (slots.get 1) ++ (resultSlotFields (slots.get 2) ++
        resultSlotFields (slots.get 3))) := by
    simp [Four.toList, Four.get]
  intro f mem
  simp only [reportFields, turns, layoutFields, layoutFields_append, resultSlotFields_size, List.mem_cons,
    List.mem_append]
  fin_cases st <;> simp at mem <;> simp [mem]

/-- Settles O35: the end of a transmission, the queue, the send order, and the frames by their fields. -/
theorem transmissionEndsAfterItsLastByte : Obligations.TransmissionEndsAfterItsLastByte := by
  unfold Obligations.TransmissionEndsAfterItsLastByte
  refine ⟨?_, ?_, isResult_iff, ?_, ?_, placeReply_eq, ?_⟩
  · intro s x run sending late
    refine ⟨fun report => ?_, fun reply => ?_, fun restart => ?_⟩
    · exact exec_transmitComplete run sending late (finishSending_report sending report) rfl
    · exact exec_transmitComplete run sending late (finishSending_reply sending reply) rfl
    · refine ⟨_, exec_transmitComplete run sending late (finishSending_reply sending restart) rfl, ?_, rfl⟩
      have begun := resetBegun_of_toBlock (s := s) (cause := .restartRequest)
        (m := { s.msg with sending := none, inHand := none }) (line := s.resetLine)
        (t := ⟨beginReset .restartRequest (s.toBlock.setMsg { s.msg with sending := none, inHand := none }), s.pending⟩)
        rfl
      have record : recordAfter .restartRequest s.toBlock = ⟨.restartRequest, some s.line.state, some false⟩ := by
        rw [recordAfter, running_of run]
        rfl
      have progress : progressAfter .restartRequest s.toBlock = ⟨s.clock, false, false, true, none⟩ := by
        rw [progressAfter, run]
        rfl
      rw [record, progress] at begun
      exact begun
  · intro m numbered body hnumbered
    subst hnumbered
    exact ⟨fun room => offerReport_room room body, fun full => ⟨offerReport_resultDropped full, fun plain =>
      ⟨offerReport_dropped full plain, fun before after q queue result first =>
        offerReport_displaced full plain queue result first⟩⟩⟩
  · intro number body
    refine ⟨body.kind, reportPayload number body, reportFrame_eq number body, reportPayload_carries number body, ?_⟩
    have layout := reportPayload_eq number body
    cases body with
    | result tag cls slots =>
      obtain ⟨length, head⟩ := layout_spec (n := 13) layout (fields := [(2, 2, tag), (4, 1, cls)])
        (by simp [reportFields, Four.toList, resultSlotFields_size]) (by simp [reportFields, layoutFields])
      have whole := carries_of_layout (layout.trans (List.append_nil _).symm) fun f mem => mem
      refine ⟨rfl, length, head, fun st => ⟨fun absent => ?_, fun outcome flags has => ?_⟩⟩
      · refine carries_subset whole fun f mem => resultSlot_mem number tag cls slots st f ?_
        rw [show 6 + 2 * st.val = 5 + 2 * st.val + 1 by omega] at mem
        rw [absent]
        exact mem
      · refine carries_subset whole fun f mem => resultSlot_mem number tag cls slots st f ?_
        rw [show 6 + 2 * st.val = 5 + 2 * st.val + 1 by omega] at mem
        rw [has, resultSlotFields, flags_code_eq]
        exact mem
    | _ => exact ⟨rfl, layout_spec layout rfl (by simp [reportFields, layoutFields])⟩
  · decide
  · intro m now
    refine ⟨fun busy => ?_, fun free => ⟨startSending_idle free now, fun w => startSending_reply free now,
      fun q rest => startSending_report free now⟩⟩
    obtain ⟨x, sending⟩ := Option.ne_none_iff_exists'.mp busy
    exact startSending_busy sending

end Sys2Proof.Machine
end

section
/-! PROOFS. The layouts of what STATUS, TRACK QUERY, LIST READ and TALLY READ carry (chapter 11 sections 3 and 6), and the
check value (R181). -/

namespace Sys2Proof.Machine

/-! ### Fields and bytes -/

theorem field_succ (bytes : List Byte) (start size : Nat) :
    field bytes start (size + 1) = (bytes.getD start 0#8).toNat + 256 * field bytes (start + 1) size := by
  have tail : bytes.drop (start + 1) = (bytes.drop start).drop 1 := by rw [List.drop_drop]
  have head : bytes.getD start 0#8 = (bytes.drop start).getD 0 0#8 := by simp
  unfold field
  rw [tail, head]
  cases bytes.drop start with
  | nil => simp [leValue]
  | cons v rest => rfl

theorem byte_eq {n : Nat} (h : n < 256) : byte n = [BitVec.ofNat 8 n] := by
  have fits : n < 256 ^ 1 := by omega
  simp only [byte, le, if_pos fits, leDigits]

theorem carries_at {bytes front back : List Byte} {l : List (Nat × Nat)} {start : Nat}
    (h : bytes = front ++ (layoutBytes l ++ back)) (length : front.length = start)
    {fields : List (Nat × Nat × Nat)} (sub : ∀ f ∈ fields, f ∈ layoutFields start l) : Carries bytes fields := by
  subst h length
  exact carries_subset (carries_layout l front back) sub

theorem carriesSigned_at {bytes front back : List Byte} {size start : Nat} {z : Int}
    (h : bytes = front ++ (leSigned size z ++ back)) (length : front.length = start) : CarriesSigned bytes start size z := by
  subst h length
  intro low high
  rw [field_append_right _ _ _ _ (Nat.le_refl _), Nat.sub_self, field_leSigned_here size z back low high]

theorem unknownOr_eq (c : Option Nat) : unknownOr c = byte (c.getD 255) := by
  cases c with
  | none => decide
  | some n => rfl

theorem toList_eq_get {α : Type} (f : Four α) : f.toList = [f.get 0, f.get 1, f.get 2, f.get 3] := rfl

/-! ### STATUS -/

/-- The fields of STATUS between N and the output states. -/
def statusFront (b : Block) : List (Nat × Nat) :=
  [(6, b.pos.x), (6, b.pos.slice), (6, b.pos.backlash), (2, b.pos.v), (1, b.intake.queue.length),
    (2, b.track.table.length), (2, (b.lists.get 0).length), (2, (b.lists.get 1).length), (2, (b.lists.get 2).length),
    (2, (b.lists.get 3).length), (1, b.ranks.get 0), (1, b.ranks.get 1), (1, b.ranks.get 2), (1, b.ranks.get 3),
    (1, b.settings.partition.code), (1, (b.stations.get 0).state.code), (1, (b.stations.get 1).state.code),
    (1, (b.stations.get 2).state.code), (1, (b.stations.get 3).state.code), (1, b.chain.boards)]

/-- The fields of STATUS behind the feedback states. -/
def statusBack (b : Block) : List (Nat × Nat) :=
  [(1, b.line.state.code), (1, b.line.fault.code), (1, b.line.record.cause.code),
    (1, (b.line.record.lineBefore.map LineState.code).getD 255), (1, (b.line.record.saveInFlight.map flagCode).getD 255),
    (1, bitsValue [b.pos.reverseFlag, b.pos.overspeed, b.intake.ready, b.chain.chainError, b.chain.censusOk,
      b.line.settingsLost, b.line.halt.taken, b.line.airLow.taken]),
    (1, flagCode b.line.key.taken + 2 * b.store.lock.code + 8 * b.store.activity.code + 32 * b.maint.code),
    (1, b.msg.buffer.length), (1, b.msg.reports.length), (1, b.msg.pointer.table.code), (1, b.msg.pointer.index),
    (1, b.msg.pointer.step.code)]

theorem statusFront_eq (b : Block) (back : List Byte) :
    leSigned 8 b.pos.n ++ (layoutBytes (statusFront b) ++ back) =
      leSigned 8 b.pos.n ++ le 6 b.pos.x ++ le 6 b.pos.slice ++ le 6 b.pos.backlash ++ le 2 b.pos.v ++
        byte b.intake.queue.length ++ le 2 b.track.table.length ++ b.lists.toList.flatMap (fun l => le 2 l.length) ++
        b.ranks.toList.flatMap byte ++ byte b.settings.partition.code ++
        b.stations.toList.flatMap (fun st => byte st.state.code) ++ byte b.chain.boards ++ back := by
  simp only [statusFront, layoutBytes, byte, toList_eq_get, List.flatMap_cons, List.flatMap_nil, List.append_assoc,
    List.append_nil]

theorem statusBack_eq (b : Block) :
    layoutBytes (statusBack b) =
      byte b.line.state.code ++ byte b.line.fault.code ++ byte b.line.record.cause.code ++
        unknownOr (b.line.record.lineBefore.map LineState.code) ++ unknownOr (b.line.record.saveInFlight.map flagCode) ++
        byte (bitsValue [b.pos.reverseFlag, b.pos.overspeed, b.intake.ready, b.chain.chainError, b.chain.censusOk,
          b.line.settingsLost, b.line.halt.taken, b.line.airLow.taken]) ++
        byte (flagCode b.line.key.taken + 2 * b.store.lock.code + 8 * b.store.activity.code + 32 * b.maint.code) ++
        byte b.msg.buffer.length ++ byte b.msg.reports.length ++ pointerBytes b.msg.pointer := by
  simp only [statusBack, layoutBytes, unknownOr_eq, byte, pointerBytes, List.flatMap_cons, List.flatMap_nil,
    List.append_assoc, List.append_nil]

theorem statusItems_eq (b : Block) :
    statusItems b =
      leSigned 8 b.pos.n ++ (layoutBytes (statusFront b) ++
        (packBits 16 b.chain.outputs ++ (packBits 16 b.chain.feedback ++ layoutBytes (statusBack b)))) := by
  rw [statusFront_eq, statusBack_eq]
  unfold statusItems
  simp only [List.append_assoc]

theorem statusFront_length (b : Block) : (layoutBytes (statusFront b)).length = 41 := by
  simp [layoutBytes_length, statusFront]

/-- The fields before the states. -/
theorem status_front_carries (b : Block) {fields : List (Nat × Nat × Nat)}
    (sub : ∀ f ∈ fields, f ∈ layoutFields 8 (statusFront b)) : Carries (statusItems b) fields :=
  carries_at (statusItems_eq b) (leSigned_length 8 _) sub

/-- The fields behind the states. -/
theorem status_back_carries (b : Block) {fields : List (Nat × Nat × Nat)}
    (sub : ∀ f ∈ fields, f ∈ layoutFields 81 (statusBack b)) : Carries (statusItems b) fields := by
  refine carries_at (back := []) (front := leSigned 8 b.pos.n ++ (layoutBytes (statusFront b) ++
    (packBits 16 b.chain.outputs ++ packBits 16 b.chain.feedback))) ?_ ?_ sub
  · rw [statusItems_eq]
    simp
  · simp [statusFront_length]

theorem status_outputs (b : Block) {o : Nat} (h : o < 128) :
    field (statusItems b) (49 + o / 8) 1 / 2 ^ (o % 8) % 2 = flagCode (b.chain.outputs.getD o false) := by
  have front : (leSigned 8 b.pos.n ++ layoutBytes (statusFront b)).length = 49 := by simp [statusFront_length]
  rw [statusItems_eq, ← List.append_assoc, field_append_right _ _ _ _ (by omega), front, Nat.add_sub_cancel_left,
    field_append_left _ _ _ _ (by rw [packBits_length]; omega), packBits_bit 16 _ o (by omega)]

theorem status_feedback (b : Block) {o : Nat} (h : o < 128) :
    field (statusItems b) (65 + o / 8) 1 / 2 ^ (o % 8) % 2 = flagCode (b.chain.feedback.getD o false) := by
  have front : (leSigned 8 b.pos.n ++ (layoutBytes (statusFront b) ++ packBits 16 b.chain.outputs)).length = 65 := by
    simp [statusFront_length]
  have split : statusItems b =
      (leSigned 8 b.pos.n ++ (layoutBytes (statusFront b) ++ packBits 16 b.chain.outputs)) ++
        (packBits 16 b.chain.feedback ++ layoutBytes (statusBack b)) := by
    rw [statusItems_eq]
    simp
  rw [split, field_append_right _ _ _ _ (by omega), front, Nat.add_sub_cancel_left,
    field_append_left _ _ _ _ (by rw [packBits_length]; omega), packBits_bit 16 _ o (by omega)]

/-! ### TRACK QUERY -/

/-- The figures of a slot as fields: 16 bytes (R37). -/
def figureFields (x : Option Figures) : List (Nat × Nat) :=
  match x with
  | none => [(16, 0)]
  | some g =>
    [(6, g.onSlice), (6, g.offSlice), (1, g.firstChannel), (1, g.lastChannel), (1, g.entries), (1, g.completions)]

/-- The code of a slot's outcome, 255 where it has none. -/
def outcomeCode (x : SlotState) : Nat :=
  match x with
  | .final o => o.code
  | .waiting | .committed | .active => 255

/-- The fields of a slot behind its commit slice. -/
def slotBack (sl : Slot) : List (Nat × Nat) :=
  figureFields sl.figures ++ [(1, outcomeCode sl.state), (1, sl.flags.code)]

theorem slotBytes_none : slotBytes none = layoutBytes [(1, 255), (1, 0), (6, 0), (16, 0), (1, 255), (1, 0)] := by decide

theorem slotBytes_some (sl : Slot) :
    slotBytes (some sl) =
      layoutBytes [(1, sl.state.code), (1, flagCode sl.figures.isSome)] ++
        (leSigned 6 sl.commitSlice ++ layoutBytes (slotBack sl)) := by
  have absent : [0xFF#8] = byte 255 := by decide
  have zeros : List.replicate 16 0#8 = le 16 0 := by decide
  unfold slotBytes
  dsimp only
  rw [absent, zeros]
  cases state : sl.state <;> cases figures : sl.figures <;>
    simp [layoutBytes, slotBack, figureFields, outcomeCode, state, figures, byte, flagCode]

theorem recordBytes_eq (r : ParticleRecord) :
    recordBytes r =
      layoutBytes
        [(2, r.tag), (1, r.cls), (6, r.position), (2, r.length), (1, r.firstLane), (1, r.lastLane), (1, r.confidence),
          (1, r.action.code + 2 * r.delivery.code + 8 * flagCode r.report), (1, r.priority), (1, r.pattern)] ++
        (slotBytes (r.slots.get 0) ++ (slotBytes (r.slots.get 1) ++ (slotBytes (r.slots.get 2) ++
          slotBytes (r.slots.get 3)))) := by
  simp [recordBytes, layoutBytes, byte, toList_eq_get]

/-- Where a station's bytes stand in a record's. -/
theorem recordBytes_slot (r : ParticleRecord) (st : StationId) :
    ∃ front back, recordBytes r = front ++ (slotBytes (r.slots.get st) ++ back) ∧ front.length = 17 + 26 * st.val := by
  have eq := recordBytes_eq r
  generalize head : layoutBytes _ = front at eq
  have size : front.length = 17 := by
    rw [← head, layoutBytes_length]
    rfl
  fin_cases st
  · exact ⟨front, _, eq, by simp [size]⟩
  · exact ⟨front ++ slotBytes (r.slots.get 0), _, eq.trans (List.append_assoc _ _ _).symm, by simp [size]⟩
  · exact ⟨front ++ (slotBytes (r.slots.get 0) ++ slotBytes (r.slots.get 1)), _,
      eq.trans (by simp; rfl), by simp [size]⟩
  · exact ⟨front ++ (slotBytes (r.slots.get 0) ++ (slotBytes (r.slots.get 1) ++ slotBytes (r.slots.get 2))), [],
      eq.trans (by simp), by simp [size]⟩

/-! ### LIST READ -/

theorem padded_tags {l : List Nat} (h : l.length ≤ 4) :
    l ++ List.replicate (4 - l.length) 0 = [l.getD 0 0, l.getD 1 0, l.getD 2 0, l.getD 3 0] := by
  match l with
  | [] => rfl
  | [_] => rfl
  | [_, _] => rfl
  | [_, _, _] => rfl
  | [_, _, _, _] => rfl
  | _ :: _ :: _ :: _ :: _ :: rest =>
    simp only [List.length_cons] at h
    omega

/-- The state bits of an entry: its state, and behind it the confirmed flag where it has one (log 36). -/
def entryStateBits (e : Entry) : Nat :=
  match e.state with
  | .committed => 0
  | .active _ confirmed => 2 + if confirmed = true ∧ e.kind = .eject then 4 else 0

/-- The age of an entry, saturating (R108). -/
def entryAge (now : Nat) (e : Entry) : Nat :=
  match e.state with
  | .committed => 0
  | .active start _ => min (now - start) 4294967295

/-- The fields of an entry. -/
def entryFields (now : Nat) (e : Entry) : List (Nat × Nat) :=
  [(1, e.channel), (6, e.onSlice), (6, e.offSlice), (1, e.kind.code + entryStateBits e), (1, e.priority),
    (1, e.tags.length), (2, e.tags.getD 0 0), (2, e.tags.getD 1 0), (2, e.tags.getD 2 0), (2, e.tags.getD 3 0),
    (4, entryAge now e)]

theorem entryBytes_eq (now : Nat) {e : Entry} (h : e.tags.length ≤ 4) :
    entryBytes now e = layoutBytes (entryFields now e) := by
  unfold entryBytes
  rw [padded_tags h]
  cases state : e.state with
  | committed => simp [entryFields, layoutBytes, byte, entryAge, entryStateBits, state]
  | active start confirmed =>
    have bits : 4 * flagCode (confirmed && e.kind == .eject) = if confirmed = true ∧ e.kind = .eject then 4 else 0 := by
      cases confirmed <;> cases e.kind <;> rfl
    simp [entryFields, layoutBytes, byte, entryAge, entryStateBits, state, bits]

/-! ### The check value -/

theorem crcBytes_eq (covered : List Byte) :
    crcBytes covered = [(crc16 covered).setWidth 8, (crc16 covered >>> 8).setWidth 8] := by
  have high : (crc16 covered >>> 8).toNat = (crc16 covered).toNat / 256 := by
    rw [BitVec.toNat_ushiftRight, Nat.shiftRight_eq_div_pow]
  simp only [crcBytes, leDigits, ← high, BitVec.ofNat_toNat]

end Sys2Proof.Machine
end

section
/-! PROOFS. The requests that read: UNKNOWN_KIND, IDENTIFY, STATUS, TRACK_QUERY, LIST_READ, TALLY_READ (R51, R108, R154,
R157, R158, R166, R167). -/

namespace Sys2Proof.Machine

/-! ### Answers that change nothing -/

/-- A request that is answered with what it reads. -/
theorem serve_answered {s : State} {kind : Byte} {p : List Byte} {rest : List Frame} (h : Serving s kind p rest)
    {mine : Frame → Bool} (hm : mine ⟨kind, p⟩ = true) {judge : List Byte → Block → Block × Option Reply}
    {items : List Byte}
    (hj : judge p (s.toBlock.setMsg (s.msg.serving kind rest)) =
      answer (s.toBlock.setMsg (s.msg.serving kind rest)) items) :
    serve mine judge s = .next { s with msg := s.answered kind rest .ok items } :=
  serve_replied h hm hj

theorem exec_always {s : State} {kind : Byte} {p : List Byte} {rest : List Frame} (h : Serving s kind p rest)
    {mine : Frame → Bool} (hm : mine ⟨kind, p⟩ = true) (items : Block → List Byte) :
    serve mine (always items) s =
      .next
        { s with
          msg :=
            if p = [] then s.answered kind rest .ok (items (s.toBlock.setMsg (s.msg.serving kind rest)))
            else s.answered kind rest .badArg [] } := by
  by_cases empty : p = []
  · rw [if_pos empty]
    subst empty
    exact serve_answered h hm rfl
  · rw [if_neg empty]
    refine serve_refused h hm ?_
    unfold always
    rw [if_neg (by simpa using empty)]

theorem exec_unknownKind {s : State} {kind : Byte} {p : List Byte} {rest : List Frame} (h : Serving s kind p rest)
    (unknown : kind.toNat ∉ requestKinds) :
    exec .unknownKind s = .next
      { s with
        msg :=
          ({ s.msg.serving kind rest with
              tallies := { s.msg.tallies with unknown := bump s.msg.tallies.unknown } }).replying
            s.clock kind .unknownKind [] } := by
  have mine : unknownFrame ⟨kind, p⟩ = true := by
    unfold unknownFrame
    rw [Bool.not_eq_true', List.contains_eq_mem, decide_eq_false_iff_not]
    exact unknown
  exact serve_replied h mine (judge := judgeUnknown) rfl

theorem exec_trackQuery {s : State} {p : List Byte} {rest : List Frame} (h : Serving s 0x42#8 p rest)
    (past : s.line.state ≠ .startup) (length : p.length = 2) :
    exec .trackQuery s = serve (kindIs 0x42) (forRecord fun r b => answer b (recordBytes r)) s :=
  serve_plain h rfl past length _

theorem exec_listRead {s : State} {p : List Byte} {rest : List Frame} (h : Serving s 0x43#8 p rest)
    (past : s.line.state ≠ .startup) (length : p.length = 3) :
    exec .listRead s = serve (kindIs 0x43) (forStation ownListRead) s := serve_plain h rfl past length _

theorem forRecord_none {own : ParticleRecord → Block → Block × Option Reply} {p : List Byte} {b : Block}
    (missing : findRecord (field p 0 2) b.track.table = none) : forRecord own p b = refuse .notFound b := by
  unfold forRecord
  rw [missing]

theorem forRecord_some {own : ParticleRecord → Block → Block × Option Reply} {p : List Byte} {b : Block}
    {r : ParticleRecord} (found : findRecord (field p 0 2) b.track.table = some r) : forRecord own p b = own r b := by
  unfold forRecord
  rw [found]

theorem forStation_of {own : StationId → List Byte → Block → Block × Option Reply} {p : List Byte} {st : StationId}
    (h : field p 0 1 = st.val) (b : Block) : forStation own p b = own st p b := by
  unfold forStation
  rw [stationOf_val h]

theorem forStation_none {own : StationId → List Byte → Block → Block × Option Reply} {p : List Byte}
    (h : 4 ≤ field p 0 1) (b : Block) : forStation own p b = refuse .badArg b := by
  unfold forStation
  rw [stationOf_none h]

theorem ownListRead_beyond {p : List Byte} (h : 767 < field p 1 2) (st : StationId) (b : Block) :
    ownListRead st p b = refuse .badArg b := if_neg (by omega)

/-- A station number or an index past its range is refused (R108, R182). -/
theorem listRead_refused {p : List Byte} (h : 4 ≤ field p 0 1 ∨ 767 < field p 1 2) (b : Block) :
    forStation ownListRead p b = refuse .badArg b := by
  unfold forStation
  cases station : stationOf (field p 0 1) with
  | none => rfl
  | some st =>
    have inRange := stationOf_some station
    exact ownListRead_beyond (by omega) st b

/-! ### IDENTIFY -/

theorem identifyItems_eq :
    identifyItems =
      [0x4A#8, 0x54#8, 0x2D#8, 0x34#8, 0x36#8, 0x30#8, BitVec.ofNat 8 (Config.hardwareRevision.val + 1), 4#8, 32#8,
        250#8] := by
  have revision := byte_eq (n := Config.hardwareRevision.val + 1) (by omega)
  have rest : byte Config.bufferCapacity ++ (byte Config.reportCapacity ++ byte Config.largestPayload) =
      [4#8, 32#8, 250#8] := by decide
  unfold identifyItems
  rw [revision, List.append_assoc, List.append_assoc, List.append_assoc, rest]
  rfl

/-! ### The parts of the statement about what is carried -/

theorem statusCode_eq (x : Status) : byte x.code = [BitVec.ofNat 8 x.code] := by
  cases x <;> decide

theorem statusFlags_eq (a b c d e f g h : Bool) :
    bitsValue [a, b, c, d, e, f, g, h] =
      flagCode a + 2 * flagCode b + 4 * flagCode c + 8 * flagCode d + 16 * flagCode e + 32 * flagCode f +
        64 * flagCode g + 128 * flagCode h := by
  simp only [bitsValue]
  omega

theorem status_net (b : Block) : CarriesSigned (statusItems b) 0 8 b.pos.n := by
  refine carriesSigned_at (front := []) (back := layoutBytes (statusFront b) ++
    (packBits 16 b.chain.outputs ++ (packBits 16 b.chain.feedback ++ layoutBytes (statusBack b)))) ?_ rfl
  rw [List.nil_append, statusItems_eq]

theorem carries_of_or {bytes : List Byte} {fields l k : List (Nat × Nat × Nat)} (hl : Carries bytes l)
    (hk : Carries bytes k) (sub : ∀ f ∈ fields, f ∈ l ∨ f ∈ k) : Carries bytes fields :=
  fun f mem => (sub f mem).elim (hl f) (hk f)

theorem status_carries (b : Block) :
    Carries (statusItems b)
      [(8, 6, b.pos.x), (14, 6, b.pos.slice), (20, 6, (b.pos.x - b.pos.n).toNat), (26, 2, b.pos.v),
        (28, 1, b.intake.queue.length), (29, 2, b.track.table.length), (43, 1, b.settings.partition.code),
        (48, 1, b.chain.boards), (81, 1, b.line.state.code), (82, 1, b.line.fault.code),
        (83, 1, b.line.record.cause.code), (84, 1, (b.line.record.lineBefore.map LineState.code).getD 255),
        (85, 1, (b.line.record.saveInFlight.map flagCode).getD 255),
        (86, 1, flagCode b.pos.reverseFlag + 2 * flagCode b.pos.overspeed + 4 * flagCode b.intake.ready +
          8 * flagCode b.chain.chainError + 16 * flagCode b.chain.censusOk + 32 * flagCode b.line.settingsLost +
          64 * flagCode b.line.halt.taken + 128 * flagCode b.line.airLow.taken),
        (87, 1, flagCode b.line.key.taken + 2 * b.store.lock.code + 8 * b.store.activity.code + 32 * b.maint.code),
        (88, 1, b.msg.buffer.length), (89, 1, b.msg.reports.length), (90, 1, b.msg.pointer.table.code),
        (91, 1, b.msg.pointer.index), (92, 1, b.msg.pointer.step.code)] := by
  refine carries_of_or (status_front_carries b fun f mem => mem) (status_back_carries b fun f mem => mem) ?_
  simp [statusFront, statusBack, layoutFields, statusFlags_eq, PositionUnit.backlash]

theorem status_station_carries (b : Block) (st : StationId) :
    Carries (statusItems b)
      [(31 + 2 * st.val, 2, (b.lists.get st).length), (39 + st.val, 1, b.ranks.get st),
        (44 + st.val, 1, (b.stations.get st).state.code)] := by
  refine status_front_carries b ?_
  fin_cases st <;> simp [statusFront, layoutFields]

section
variable (r : ParticleRecord) {st : StationId} {o : Nat} (ho : o = 17 + 26 * st.val)

include ho

theorem record_noSlot (h : r.slots.get st = none) :
    Carries (recordBytes r) [(o, 1, 255), (o + 1, 1, 0), (o + 2, 6, 0), (o + 8, 16, 0), (o + 24, 1, 255), (o + 25, 1, 0)] := by
  obtain ⟨front, back, bytes, length⟩ := recordBytes_slot r st
  rw [h, slotBytes_none] at bytes
  exact carries_at bytes (length.trans ho.symm) (by simp [layoutFields])

theorem record_slice {sl : Slot} (h : r.slots.get st = some sl) :
    CarriesSigned (recordBytes r) (o + 2) 6 sl.commitSlice := by
  obtain ⟨front, back, bytes, length⟩ := recordBytes_slot r st
  rw [h, slotBytes_some] at bytes
  refine carriesSigned_at
    (front := front ++ layoutBytes [(1, sl.state.code), (1, flagCode sl.figures.isSome)])
    (back := layoutBytes (slotBack sl) ++ back) (bytes.trans (by simp)) ?_
  simp [layoutBytes_length, length, ho]

theorem record_slotFront {sl : Slot} (h : r.slots.get st = some sl) {fields : List (Nat × Nat × Nat)}
    (sub : ∀ f ∈ fields, f ∈ [(o, 1, sl.state.code), (o + 1, 1, flagCode sl.figures.isSome)]) :
    Carries (recordBytes r) fields := by
  obtain ⟨front, back, bytes, length⟩ := recordBytes_slot r st
  rw [h, slotBytes_some] at bytes
  exact carries_at (l := [(1, sl.state.code), (1, flagCode sl.figures.isSome)])
    (back := leSigned 6 sl.commitSlice ++ (layoutBytes (slotBack sl) ++ back)) (bytes.trans (by simp))
    (length.trans ho.symm) (fun f mem => by simpa [layoutFields] using sub f mem)

theorem record_slotBack {sl : Slot} (h : r.slots.get st = some sl) {fields : List (Nat × Nat × Nat)}
    (sub : ∀ f ∈ fields, f ∈ layoutFields (o + 8) (slotBack sl)) : Carries (recordBytes r) fields := by
  obtain ⟨front, back, bytes, length⟩ := recordBytes_slot r st
  rw [h, slotBytes_some] at bytes
  refine carries_at
    (front := front ++ (layoutBytes [(1, sl.state.code), (1, flagCode sl.figures.isSome)] ++ leSigned 6 sl.commitSlice))
    (back := back) (bytes.trans (by simp)) ?_ sub
  simp [layoutBytes_length, length, ho]

end

theorem figureFields_size (x : Option Figures) : ((figureFields x).map (·.1)).sum = 16 := by cases x <;> rfl

theorem slotBack_fields (start : Nat) (sl : Slot) :
    layoutFields start (slotBack sl) =
      layoutFields start (figureFields sl.figures) ++
        [(start + 16, 1, outcomeCode sl.state), (start + 17, 1, sl.flags.code)] := by
  rw [slotBack, layoutFields_append, figureFields_size]
  rfl

theorem record_slot {r : ParticleRecord} {st : StationId} {o : Nat} (ho : o = 17 + 26 * st.val) {sl : Slot}
    (h : r.slots.get st = some sl) :
    Carries (recordBytes r)
      [(o, 1, sl.state.code), (o + 24, 1, outcomeCode sl.state),
        (o + 25, 1, flagCode sl.flags.late + 2 * flagCode sl.flags.truncated + 4 * flagCode sl.flags.merged +
          8 * flagCode sl.flags.cut + 16 * flagCode sl.flags.degraded)] := by
  refine carries_of_or (record_slotFront r ho h fun f mem => mem) (record_slotBack r ho h fun f mem => mem) ?_
  simp [slotBack_fields, flags_code_eq]

theorem record_figures {r : ParticleRecord} {st : StationId} {o : Nat} (ho : o = 17 + 26 * st.val) {sl : Slot}
    (h : r.slots.get st = some sl) {fields : List (Nat × Nat × Nat)}
    (sub : ∀ f ∈ fields, f = (o + 1, 1, flagCode sl.figures.isSome) ∨ f ∈ layoutFields (o + 8) (figureFields sl.figures)) :
    Carries (recordBytes r) fields := by
  refine carries_of_or (record_slotFront r ho h fun f mem => mem) (record_slotBack r ho h fun f mem => mem) fun f mem => ?_
  rw [slotBack_fields]
  rcases sub f mem with known | figure
  · exact .inl (by simp [known])
  · exact .inr (List.mem_append_left _ figure)

/-- Settles O36: each request's answer, and each layout by its fields. -/
theorem readingRequestsChangeNothing : Obligations.ReadingRequestsChangeNothing := by
  unfold Obligations.ReadingRequestsChangeNothing
  refine ⟨fun s p rest => ⟨fun kind h => exec_unknownKind h, fun h => exec_always h rfl _, fun h => exec_always h rfl _,
      fun h past length => ⟨fun missing => ?_, fun r found => ?_⟩,
      fun h past length => ⟨fun st station low => ?_, fun bad => ?_⟩⟩,
    fun bytes start size => ⟨rfl, field_succ bytes start size⟩, fun size n fits => ⟨le_length size n, field_le size n fits⟩,
    fun n => rfl, ⟨Config.hardwareRevision.val + 1, by omega, by omega, identifyItems_eq⟩, ?_, ?_, ?_, ?_,
    fun kind payload => rfl, fun kind status items => ?_, ?_⟩
  · rw [exec_trackQuery h past length]
    exact serve_refused h rfl (forRecord_none missing)
  · rw [exec_trackQuery h past length]
    exact serve_answered h rfl (forRecord_some (b := s.toBlock.setMsg (s.msg.serving 0x42#8 rest)) found)
  · rw [exec_listRead h past length]
    exact serve_answered h rfl ((forStation_of station _).trans (if_pos low))
  · rw [exec_listRead h past length]
    exact serve_refused h rfl (listRead_refused bad _)
  · intro b items is
    rw [is]
    exact ⟨statusItems_length b, status_net b, status_carries b, status_station_carries b,
      fun o inRange => ⟨status_outputs b inRange, status_feedback b inRange⟩⟩
  · intro r items is
    rw [is]
    refine ⟨recordBytes_length r, carries_of_layout (recordBytes_eq r) (by simp [layoutFields]), fun st o ho =>
      ⟨record_noSlot r ho, fun sl has => ⟨record_slice r ho has, record_slot ho has, fun none => ?_,
        fun g figures => ?_⟩⟩⟩
    · refine record_figures ho has ?_
      simp [none, figureFields, layoutFields, flagCode]
    · refine record_figures ho has ?_
      simp [figures, figureFields, layoutFields, flagCode]
  · intro now e items is few
    rw [is]
    exact layout_spec (entryBytes_eq now few) rfl fun f mem => mem
  · exact ⟨rfl, rfl, by decide, by decide, by decide, by decide, by decide, by decide, by decide, by decide, by decide,
      by decide, by decide, by decide, by decide, by decide, fun _ => rfl, ⟨rfl, fun _ => rfl, rfl⟩,
      rfl, fun _ => rfl, fun _ => rfl, fun _ => rfl⟩
  · show controlFrame kind (byte status.code ++ items) = _
    rw [statusCode_eq]
    rfl
  · intro shift covered check hshift hcheck
    have shiftIs : shift = crcShift := funext hshift
    have checkIs : check = crc16 covered := by
      rw [hcheck, shiftIs]
      rfl
    rw [checkIs, crcBytes_eq]

end Sys2Proof.Machine
end

section
/-! PROOFS. TALLY_READ (R33, R44, R130, R166, R167). -/

namespace Sys2Proof.Machine

/-! ### Its answer -/

theorem flagOf_none {n : Nat} (h : 2 ≤ n) : flagOf n = none := by
  match n with
  | 0 => omega
  | 1 => omega
  | n + 2 => rfl

theorem field_second (v w : Byte) (l : List Byte) : field (v :: w :: l) 1 1 = w.toNat := field_head w l

theorem ownTallyRead_flag {group clear : Byte} (h : 2 ≤ clear.toNat) (b : Block) :
    ownTallyRead [group, clear] b = refuse .badArg b := by
  unfold ownTallyRead
  rw [field_second, flagOf_none h]

theorem ownTallyRead_eq {group clear : Byte} (h : clear = 0#8 ∨ clear = 1#8) (b : Block) :
    ownTallyRead [group, clear] b = readTallies group.toNat (decide (clear = 1#8)) b := by
  unfold ownTallyRead
  rw [field_second, field_head]
  rcases h with rfl | rfl <;> rfl

theorem readTallies_station {n : Nat} {st : StationId} (h : n = st.val + 2) (clear : Bool) (b : Block) :
    readTallies n clear b =
      answer (if clear = true then clearStationTallies st b else b) (byte (st.val + 2) ++ stationItems b st) := by
  subst h
  unfold readTallies
  dsimp only
  rw [stationOf_val rfl]

theorem readTallies_none {n : Nat} (h : 6 ≤ n) (clear : Bool) (b : Block) :
    readTallies n clear b = refuse .badArg b := by
  obtain ⟨k, rfl⟩ := Nat.exists_eq_add_of_le h
  unfold readTallies
  rw [show 6 + k = (4 + k) + 2 by omega]
  dsimp only
  rw [stationOf_none (by omega)]

theorem exec_tallyRead {s : State} {group clear : Byte} {rest : List Frame}
    (h : Serving s 0x50#8 [group, clear] rest) (past : s.line.state ≠ .startup) :
    exec .tallyRead s = serve (kindIs 0x50) ownTallyRead s := serve_plain h rfl past rfl _

/-! ### What it carries -/

theorem tallyBytes_eq (l : List Nat) : tallyBytes l = layoutBytes (l.map fun v => (4, v)) := by
  rw [layoutBytes, List.flatMap_map]
  rfl

theorem mem_layoutFields_map {l : List Nat} {i v : Nat} (h : l[i]? = some v) (size start : Nat) :
    (start + size * i, size, v) ∈ layoutFields start (l.map fun v => (size, v)) := by
  induction l generalizing i start with
  | nil => simp at h
  | cons x l ih =>
    cases i with
    | zero =>
      cases h
      exact List.mem_cons_self
    | succ i =>
      refine List.mem_cons_of_mem _ ?_
      have there := ih h (start + size)
      rwa [show start + size + size * i = start + size * (i + 1) by rw [Nat.mul_succ]; omega] at there

/-- The fields of a station's items behind its outcome tallies. -/
def stationFields (b : Block) (st : StationId) : List (Nat × Nat) :=
  [(1, (b.settings.floors.get st).floor), (1, (b.settings.floors.get st).lowAir), (1, (b.config st).kind.code),
    (1, (b.station st).state.code), (1, flagCode (b.station st).enable), (4, (b.station st).noConfirm),
    (4, (b.station st).stuck), (4, (b.station st).cut), (1, (b.config st).channels)]

/-- The fault codes of a station's channels. -/
def channelCodes (b : Block) (st : StationId) : List Nat :=
  (List.range (b.config st).channels).map fun ch => (channelAt (b.station st).channels ch).code

theorem stationItems_eq (b : Block) (st : StationId) :
    stationItems b st =
      layoutBytes ((b.track.outcomes.get st).map fun v => (4, v)) ++
        (layoutBytes (stationFields b st) ++ layoutBytes ((channelCodes b st).map fun v => (1, v))) := by
  unfold stationItems
  rw [tallyBytes_eq]
  simp [stationFields, channelCodes, layoutBytes, tallyBytes, byte, List.flatMap_map]

section
variable {b : Block} {st : StationId} (length : (b.track.outcomes.get st).length = 13)

include length

theorem outcomes_size : (layoutBytes ((b.track.outcomes.get st).map fun v => (4, v))).length = 52 := by
  rw [← tallyBytes_eq, tallyBytes_length, length]

theorem stationItems_length : (stationItems b st).length = 70 + (b.settings.stations.get st).channels := by
  rw [stationItems_eq, List.length_append, outcomes_size length]
  simp [layoutBytes_length, stationFields, channelCodes, Block.config, Function.comp_def]
  omega

theorem stationItems_fields {fields : List (Nat × Nat × Nat)}
    (sub : ∀ f ∈ fields, f ∈ layoutFields 52 (stationFields b st)) : Carries (stationItems b st) fields :=
  carries_at (stationItems_eq b st) (outcomes_size length) sub

theorem stationItems_channel {ch v : Nat} (h : (channelCodes b st)[ch]? = some v) :
    Carries (stationItems b st) [(70 + ch, 1, v)] := by
  refine carries_at (back := []) (l := (channelCodes b st).map fun v => (1, v)) (start := 70)
    (front := layoutBytes ((b.track.outcomes.get st).map fun v => (4, v)) ++ layoutBytes (stationFields b st)) ?_ ?_ ?_
  · rw [stationItems_eq]
    simp
  · rw [List.length_append, outcomes_size length, layoutBytes_length]
    rfl
  · intro f mem
    rw [List.mem_singleton.mp mem]
    have there := mem_layoutFields_map h 1 70
    rwa [Nat.one_mul] at there

end

theorem stationItems_outcome (b : Block) {st : StationId} {i v : Nat} (h : (b.track.outcomes.get st)[i]? = some v) :
    Carries (stationItems b st) [(4 * i, 4, v)] := by
  refine carries_of_layout (stationItems_eq b st) fun f mem => ?_
  rw [List.mem_singleton.mp mem]
  have there := mem_layoutFields_map h 4 0
  rwa [Nat.zero_add] at there

theorem channel_code_eq (z : Channel) :
    z.code =
      match z.fault with
      | none => 0
      | some .noConfirm => 1
      | some .stuck => 2 := by
  unfold Channel.code
  cases z.fault with
  | none => rfl
  | some c => cases c <;> rfl

theorem channel_code_lt (z : Channel) : z.code < 256 ^ 1 := by
  unfold Channel.code
  cases z.fault with
  | none => decide
  | some c => cases c <;> decide

/-- Settles O37: the groups one by one, and their items by the fields. -/
theorem tallyReadCarriesAndClears : Obligations.TallyReadCarriesAndClears := by
  unfold Obligations.TallyReadCarriesAndClears
  refine ⟨fun s group clear rest h past bad => ?_, fun s group clear rest h past flag => ?_, fun t => ?_, fun t => ?_, ?_⟩
  · rw [exec_tallyRead h past]
    exact serve_refused h rfl (ownTallyRead_flag bad _)
  · rw [exec_tallyRead h past]
    refine ⟨fun intake => ?_, fun link => ?_, fun st station => ?_, fun beyond => ?_⟩
    · subst intake
      refine (serve_replied h rfl (ownTallyRead_eq flag _)).trans ?_
      rcases flag with rfl | rfl <;> rfl
    · subst link
      refine (serve_replied h rfl (ownTallyRead_eq flag _)).trans ?_
      rcases flag with rfl | rfl <;> rfl
    · refine (serve_replied h rfl ((ownTallyRead_eq flag _).trans (readTallies_station station _ _))).trans ?_
      rcases flag with rfl | rfl <;> rfl
    · exact serve_refused h rfl ((ownTallyRead_eq flag _).trans (readTallies_none beyond _ _))
  · exact layout_spec (tallyBytes_eq _) rfl fun f mem => mem
  · exact layout_spec (tallyBytes_eq _) rfl fun f mem => mem
  · intro b st x c outcomes items hx hc houtcomes length is
    subst hx hc houtcomes
    rw [is]
    refine ⟨stationItems_length length, fun i v => stationItems_outcome b, stationItems_fields length fun f mem => mem,
      fun ch z inRange has => ?_⟩
    have code : (channelCodes b st)[ch]? = some z.code := by
      have at_ch : channelAt (b.station st).channels ch = z := channelAt_of_get has
      have number : (List.range (b.config st).channels)[ch]? = some ch := List.getElem?_range inRange
      rw [channelCodes, List.getElem?_map, number, Option.map_some, at_ch]
    have carried := stationItems_channel length code _ List.mem_cons_self (channel_code_lt z)
    exact carried.trans (channel_code_eq z)

end Sys2Proof.Machine
end

section
/-! PROOFS. The checks before a request's own (R135, R154, R175). -/

namespace Sys2Proof.Machine

/-! ### Every request but three is judged by the same checks first -/

/-- A request row of R154: its frames, and checks 2 to 4 before its own. -/
theorem exec_judged {c : Instr} {f : Frame} (mine : serves c f = true) (unknown : c ≠ .unknownKind)
    (identify : c ≠ .identify) (status : c ≠ .status) :
    ∃ lengthOk edit own, ∀ s, exec c s = serve (serves c) (judged lengthOk edit own) s := by
  cases c
  case unknownKind => exact absurd rfl unknown
  case identify => exact absurd rfl identify
  case status => exact absurd rfl status
  all_goals first | exact absurd mine Bool.false_ne_true | exact ⟨_, _, _, fun _ => rfl⟩

/-- Settles O38: check 2 of R154. -/
theorem startupRefusesRequests : Obligations.StartupRefusesRequests := by
  unfold Obligations.StartupRefusesRequests
  intro s c kind p rest h startup mine unknown identify status
  obtain ⟨lengthOk, edit, own, row⟩ := exec_judged mine unknown identify status
  rw [row]
  exact serve_refused h mine (judged_startup startup)

/-! ### Check 3: the payload length -/

/-- The requests with one payload length, their kinds and that length. -/
def fixedLengths : List (Instr × Byte × Nat) :=
  [(Instr.lineRun, 0x10#8, 1), (.lineStandbyDrain, 0x10#8, 1), (.lineStandbyFlush, 0x10#8, 1),
    (.lineSet, 0x11#8, 7), (.stationSet, 0x20#8, 23), (.arm, 0x21#8, 1), (.disarm, 0x22#8, 1), (.floor, 0x23#8, 3),
    (.clearChannel, 0x24#8, 2), (.select, 0x30#8, 3), (.read, 0x32#8, 1), (.releaseHolds, 0x33#8, 0),
    (.rankReset, 0x34#8, 0), (.partition, 0x35#8, 1), (.cancel, 0x40#8, 2), (.amend, 0x41#8, 3),
    (.trackQuery, 0x42#8, 2), (.listRead, 0x43#8, 3), (.tallyRead, 0x50#8, 2), (.save, 0x60#8, 0),
    (.restore, 0x61#8, 0), (.lockOpen, 0x62#8, 1), (.lockKeyed, 0x62#8, 1), (.lockSealed, 0x62#8, 1),
    (.calibrate, 0x71#8, 2), (.clearFault, 0x80#8, 0), (.restart, 0x81#8, 0)]

theorem exec_fixedLength {c : Instr} {kind : Byte} {n : Nat} (h : (c, kind, n) ∈ fixedLengths) :
    ∃ edit own, ∀ s, exec c s = serve (serves c) (judged (exactly n) edit own) s := by
  unfold fixedLengths at h
  fin_cases h <;> exact ⟨_, _, fun _ => rfl⟩

theorem exactly_false {n len : Nat} (h : len ≠ n) (b : Block) : exactly n b len = false := by simpa [exactly] using h

theorem exactly_true (n : Nat) (b : Block) : exactly n b n = true := BEq.rfl

/-- A request that refuses a payload by its own checks is refused whatever its length. -/
theorem plainRequest_refused {n : Nat} {own : List Byte → Block → Block × Option Reply} {p : List Byte} {b : Block}
    (past : b.line.state ≠ .startup) (h : own p b = refuse .badArg b) : plainRequest n own p b = refuse .badArg b := by
  by_cases length : p.length = n
  · subst length
    exact (judged_own past (exactly_true _ b) rfl).trans h
  · exact judged_length past (exactly_false length b)

theorem lineOrder_refused {code : Nat} {act : Block → Block × Option Reply} {p : List Byte} (h : field p 0 1 ≠ code)
    (b : Block) : lineOrder code act p b = refuse .badArg b := if_neg h

theorem purgeRequest_refused {own : List Byte → Block → Block × Option Reply} {p : List Byte} {b : Block}
    (past : b.line.state ≠ .startup) (h : own p b = refuse .badArg b) : purgeRequest own p b = refuse .badArg b :=
  (judged_own past rfl rfl).trans h

theorem purgeOrder_refused {code : Nat} {act : Block → Block × Option Reply} {p : List Byte}
    (h : ¬ (p.length = 1 ∧ field p 0 1 = code)) (b : Block) : purgeOrder code act p b = refuse .badArg b := if_neg h

theorem writeLengthOk_iff (b : Block) (len : Nat) :
    writeLengthOk b len = true ↔
      ∃ k, 1 ≤ k ∧ k ≤ 8 ∧ len = k * (match b.msg.pointer.table with | .route => 4 | .pattern => 6) := by
  unfold writeLengthOk
  simp only [Bool.and_eq_true, beq_iff_eq, decide_eq_true_eq]
  cases b.msg.pointer.table with
  | route =>
    simp only [entrySize]
    exact ⟨fun ⟨⟨whole, low⟩, high⟩ => ⟨len / 4, low, high, by omega⟩, fun ⟨k, low, high, is⟩ => by omega⟩
  | pattern =>
    simp only [entrySize]
    exact ⟨fun ⟨⟨whole, low⟩, high⟩ => ⟨len / 6, low, high, by omega⟩, fun ⟨k, low, high, is⟩ => by omega⟩

/-- A LINE frame that names no order is refused whichever row serves it (log 25). -/
theorem line_refused {s : State} {c : Instr} {kind : Byte} {p : List Byte} {rest : List Frame} (h : Serving s kind p rest)
    (past : s.line.state ≠ .startup) (mine : serves c ⟨kind, p⟩ = true)
    (row : c ∈ [Instr.lineRun, .lineStandbyDrain, .lineStandbyFlush]) (order : 3 ≤ field p 0 1) :
    exec c s = .next { s with msg := s.answered kind rest .badArg [] } := by
  simp only [List.mem_cons, List.not_mem_nil, or_false] at row
  rcases row with rfl | rfl | rfl
  · exact serve_refused h mine (plainRequest_refused past (lineOrder_refused (by omega) _))
  · exact serve_refused h mine (plainRequest_refused past (lineOrder_refused (by omega) _))
  · exact serve_refused h mine (plainRequest_refused past (lineOrder_refused (by omega) _))

/-- A PURGE frame whose length does not agree with its order is refused whichever row serves it (R177). -/
theorem purge_refused {s : State} {c : Instr} {kind : Byte} {p : List Byte} {rest : List Frame}
    (h : Serving s kind p rest) (past : s.line.state ≠ .startup) (mine : serves c ⟨kind, p⟩ = true)
    (row : c ∈ [Instr.purgeStart, .purgeSuspend, .purgeResume, .purgeAbort])
    (start : ¬ (p.length = 7 ∧ field p 0 1 = 0)) (order : ¬ (p.length = 1 ∧ field p 0 1 ∈ [1, 2, 3])) :
    exec c s = .next { s with msg := s.answered kind rest .badArg [] } := by
  simp only [List.mem_cons, List.not_mem_nil, or_false] at row order
  rcases row with rfl | rfl | rfl | rfl
  · exact serve_refused h mine (purgeRequest_refused past (if_neg start))
  · exact serve_refused h mine (purgeRequest_refused past (purgeOrder_refused (by omega) _))
  · exact serve_refused h mine (purgeRequest_refused past (purgeOrder_refused (by omega) _))
  · exact serve_refused h mine (purgeRequest_refused past (purgeOrder_refused (by omega) _))

/-! ### Check 4: the lock, then the work of the settings store -/

theorem editBarred_locked {b : Block}
    (h : b.store.lock = .sealed ∨ (b.store.lock = .keyed ∧ b.line.key.taken = false)) :
    editBarred b = some .locked := by
  unfold editBarred
  rcases h with lock | ⟨lock, key⟩
  · rw [lock]
  · rw [lock, key]
    rfl

theorem editBarred_busy {b : Block}
    (h : b.store.lock = .opened ∨ (b.store.lock = .keyed ∧ b.line.key.taken = true)) (busy : b.store.activity ≠ .idle) :
    editBarred b = some .busy := by
  unfold editBarred
  cases activity : b.store.activity with
  | idle => exact absurd activity busy
  | saving copy =>
    rcases h with lock | ⟨lock, key⟩
    · rw [lock]
    · rw [lock, key]
      rfl
  | restoring =>
    rcases h with lock | ⟨lock, key⟩
    · rw [lock]
    · rw [lock, key]
      rfl

/-- The edits, their kinds and payload lengths, and what WRITE's length and the first byte of LOCK say. -/
structure EditRow (s : State) (c : Instr) (kind : Byte) (n : Nat) (p : List Byte) : Prop where
  row : (c, kind, n) ∈
    [(Instr.lineSet, 0x11#8, 7), (.stationSet, 0x20#8, 23), (.write, 0x31#8, n), (.releaseHolds, 0x33#8, 0),
      (.partition, 0x35#8, 1), (.save, 0x60#8, 0), (.restore, 0x61#8, 0), (.lockOpen, 0x62#8, 1),
      (.lockKeyed, 0x62#8, 1)]
  length : p.length = n
  write : c = .write →
    ∃ k, 1 ≤ k ∧ k ≤ 8 ∧ n = k * (match s.msg.pointer.table with | .route => 4 | .pattern => 6)
  opened : c = .lockOpen → p = [0#8]
  keyed : c = .lockKeyed → p = [1#8]

theorem serve_barred {s : State} {kind : Byte} {p : List Byte} {rest : List Frame} (h : Serving s kind p rest)
    {mine : Frame → Bool} (hm : mine ⟨kind, p⟩ = true) (past : s.line.state ≠ .startup)
    {lengthOk : Block → Nat → Bool} {edit : List Byte → Bool} {own : List Byte → Block → Block × Option Reply}
    {status : Status} (good : lengthOk (s.toBlock.setMsg (s.msg.serving kind rest)) p.length = true)
    (isEdit : edit p = true) (barred : editBarred (s.toBlock.setMsg (s.msg.serving kind rest)) = some status) :
    serve mine (judged lengthOk edit own) s = .next { s with msg := s.answered kind rest status [] } :=
  serve_refused h hm (judged_barred (b := s.toBlock.setMsg (s.msg.serving kind rest)) past good isEdit barred)

/-- An edit with a good length is refused where check 4 bars it. -/
theorem edit_barred {s : State} {c : Instr} {kind : Byte} {n : Nat} {p : List Byte} {rest : List Frame}
    (e : EditRow s c kind n p) (h : Serving s kind p rest) (past : s.line.state ≠ .startup) {status : Status}
    (barred : editBarred (s.toBlock.setMsg (s.msg.serving kind rest)) = some status) :
    exec c s = .next { s with msg := s.answered kind rest status [] } := by
  have fixed {c : Instr} {n : Nat} {own : List Byte → Block → Block × Option Reply} (length : p.length = n)
      (mine : serves c ⟨kind, p⟩ = true) (row : exec c s = serve (serves c) (editRequest n own) s) :
      exec c s = .next { s with msg := s.answered kind rest status [] } := by
    subst length
    rw [row]
    exact serve_barred h mine past (exactly_true _ _) rfl barred
  obtain ⟨row, length, write, opened, keyed⟩ := e
  simp only [List.mem_cons, Prod.mk.injEq, List.not_mem_nil, or_false, and_true] at row
  rcases row with ⟨rfl, rfl, rfl⟩ | ⟨rfl, rfl, rfl⟩ | ⟨rfl, rfl⟩ | ⟨rfl, rfl, rfl⟩ | ⟨rfl, rfl, rfl⟩ |
    ⟨rfl, rfl, rfl⟩ | ⟨rfl, rfl, rfl⟩ | ⟨rfl, rfl, rfl⟩ | ⟨rfl, rfl, rfl⟩
  case inr.inr.inl =>
    have good : writeLengthOk (s.toBlock.setMsg (s.msg.serving 0x31#8 rest)) p.length = true :=
      (writeLengthOk_iff _ _).mpr (length ▸ write rfl)
    exact serve_barred h rfl past good rfl barred
  case inr.inr.inr.inr.inr.inr.inr.inl =>
    have order := opened rfl
    subst order
    exact serve_barred h rfl past (exactly_true _ _) rfl barred
  case inr.inr.inr.inr.inr.inr.inr.inr =>
    have order := keyed rfl
    subst order
    exact serve_barred h rfl past (exactly_true _ _) rfl barred
  all_goals exact fixed length rfl rfl

/-- Settles O39: check 3 for each request, and check 4 for each edit. -/
theorem lockAndWorkBarEdits : Obligations.LockAndWorkBarEdits := by
  unfold Obligations.LockAndWorkBarEdits
  refine ⟨fun s c kind p rest h past mine bad => ?_, fun s c kind n p rest row h past length write opened keyed => ?_⟩
  · rcases bad with ⟨n, length, row⟩ | ⟨rfl, noLength⟩ | ⟨row, order⟩ | ⟨row, start, order⟩
    · obtain ⟨edit, own, is⟩ := exec_fixedLength row
      rw [is]
      exact serve_refused h mine (judged_length past (exactly_false length _))
    · have bad : writeLengthOk (s.toBlock.setMsg (s.msg.serving kind rest)) p.length = false := by
        rw [Bool.eq_false_iff, Ne, writeLengthOk_iff]
        exact fun ⟨k, low, high, is⟩ => noLength k low high is
      exact serve_refused h mine (judged_length past bad)
    · exact line_refused h past mine row order
    · exact purge_refused h past mine row start order
  · have e : EditRow s c kind n p := ⟨row, length, write, opened, keyed⟩
    exact ⟨fun locked => edit_barred e h past (editBarred_locked locked),
      fun passes busy => edit_barred e h past (editBarred_busy passes busy)⟩

end Sys2Proof.Machine
end

section
/-! PROOFS. The requests to the line (R5, R6, R8, R9, R52, R136 to R138). -/

namespace Sys2Proof.Machine

/-! ### LINE -/

section
variable {s : State} {rest : List Frame} (past : s.line.state ≠ .startup)

include past

theorem exec_lineRun (h : Serving s 0x10#8 [0#8] rest) :
    exec .lineRun s = serve (orderIs 0x10 0 3) (lineOrder 0 orderRun) s := serve_plain h rfl past rfl _

theorem exec_lineStandbyDrain (h : Serving s 0x10#8 [1#8] rest) :
    exec .lineStandbyDrain s = serve (orderIs 0x10 1 3) (lineOrder 1 orderDrain) s := serve_plain h rfl past rfl _

theorem exec_lineStandbyFlush (h : Serving s 0x10#8 [2#8] rest) :
    exec .lineStandbyFlush s = serve (orderIs 0x10 2 3) (lineOrder 2 orderFlush) s := serve_plain h rfl past rfl _

end

theorem workInProgress_iff (b : Block) : workInProgress b = true ↔ b.maint ≠ .idle ∨ b.store.activity ≠ .idle := by
  rw [workInProgress, Bool.or_eq_true, bne_iff_ne, bne_iff_ne]

section
variable {b : Block}

theorem orderRun_enters
    (h : (b.line.state = .standby ∧ b.maint = .idle ∧ b.store.activity = .idle) ∨ b.line.state = .draining) :
    orderRun b = answer (enterRun b) [] := by
  unfold orderRun
  rcases h with ⟨state, maint, activity⟩ | state
  · have free : ¬ workInProgress b = true := by
      rw [workInProgress_iff]
      simp [maint, activity]
    rw [state]
    exact if_neg free
  · rw [state]

theorem orderRun_inRun (h : b.line.state = .run) : orderRun b = answer b [] := by
  unfold orderRun
  rw [h]

theorem orderRun_busy (h : b.line.state = .standby) (busy : b.maint ≠ .idle ∨ b.store.activity ≠ .idle) :
    orderRun b = refuse .busy b := by
  unfold orderRun
  rw [h]
  exact if_pos ((workInProgress_iff b).mpr busy)

theorem orderRun_refused (h : b.line.state = .halt ∨ b.line.state = .fault) : orderRun b = refuse .wrongState b := by
  unfold orderRun
  rcases h with state | state <;> rw [state]

theorem enterRun_within {left : LineState} (state : b.line.state = left) (within : b.pos.backlash ≤ b.settings.reverseLimit) :
    enterRun b =
      { b with
        line := { b.line with state := .run }
        msg := offerReport (.lineNotice left .run .lineRun .none) b.msg } := by
  unfold enterRun
  dsimp only
  rw [if_neg (by omega), enterLine_eq .lineRun state (by decide)]

theorem enterRun_beyond {left : LineState} (state : b.line.state = left) (beyond : b.settings.reverseLimit < b.pos.backlash) :
    enterRun b =
      lineFault .reverse
        { b with
          line := { b.line with state := .run }
          msg := offerReport (.lineNotice left .run .lineRun .none) b.msg } := by
  unfold enterRun
  dsimp only
  rw [if_pos beyond, enterLine_eq .lineRun state (by decide)]

theorem orderDrain_run (h : b.line.state = .run) :
    orderDrain b = answer (enterLine (if b.track.table = [] then .standby else .draining) .drain b) [] := by
  unfold orderDrain
  rw [h]

theorem orderDrain_draining (h : b.line.state = .draining) : orderDrain b = answer b [] := by
  unfold orderDrain
  rw [h]

theorem orderDrain_refused (h : b.line.state = .standby ∨ b.line.state = .halt ∨ b.line.state = .fault) :
    orderDrain b = refuse .wrongState b := by
  unfold orderDrain
  rcases h with state | state | state <;> rw [state]

theorem orderFlush_running (h : b.line.state = .run ∨ b.line.state = .draining) :
    orderFlush b = answer (enterLine .standby .flush (flush b)) [] := by
  unfold orderFlush
  rcases h with state | state <;> rw [state]

theorem orderFlush_refused (h : b.line.state = .standby ∨ b.line.state = .halt ∨ b.line.state = .fault) :
    orderFlush b = refuse .wrongState b := by
  unfold orderFlush
  rcases h with state | state | state <;> rw [state]

end

/-- What LINE RUN does with backlash above the limit: the run, and at once its fault (R9, R136). -/
theorem lineRun_faults {s : State} {rest : List Frame} {left : LineState} (h : Serving s 0x10#8 [0#8] rest)
    (past : s.line.state ≠ .startup) (state : s.line.state = left)
    (enters : (s.line.state = .standby ∧ s.maint = .idle ∧ s.store.activity = .idle) ∨ s.line.state = .draining)
    (shaped : s.toBlock.Shaped) (beyond : s.settings.reverseLimit < s.pos.backlash) :
    ∃ t, exec .lineRun s = .next t ∧ t.line = { s.line with state := .fault, fault := .reverse } ∧
      LineStopped s.toBlock t ∧
      t.msg =
        (offerAll
          ([.lineNotice left .run .lineRun .none] ++ s.toBlock.stopReports .fault ++
            [.lineNotice .run .fault .reverse .reverse])
          (s.msg.serving 0x10#8 rest)).replying s.clock 0x10#8 .ok [] ∧
      t.pos = s.pos ∧ t.intake = s.intake ∧ t.ranks = s.ranks ∧ t.chain = s.chain ∧ t.store = s.store := by
  let c : Block :=
    { s.toBlock with
      line := { s.line with state := .run }
      msg := offerReport (.lineNotice left .run .lineRun .none) (s.msg.serving 0x10#8 rest) }
  have runs : lineOrder 0 orderRun [0#8] (s.toBlock.setMsg (s.msg.serving 0x10#8 rest)) =
      (lineFault .reverse c, some ⟨.ok, []⟩) :=
    (orderRun_enters (b := s.toBlock.setMsg (s.msg.serving 0x10#8 rest)) enters).trans
      (congrArg (answer · []) (enterRun_beyond (b := s.toBlock.setMsg (s.msg.serving 0x10#8 rest)) state beyond))
  have enable (st : StationId) := shaped.quiet st
  have stop (m : MessageUnit) := lineFault_stopped (f := .reverse) (b := s.toBlock) (c := c) rfl enable rfl rfl rfl rfl s m
  obtain ⟨line, _, _, pos, intake, ranks, chain, store, clock⟩ := lineFault_spec .reverse c rfl enable
  have queued := (stop s.msg).2
  refine ⟨_, (exec_lineRun past h).trans (serve_replied h rfl runs), ?_⟩
  generalize lineFault .reverse c = d at *
  refine ⟨line, (stop _).1, ?_, pos, intake, ranks, chain, store⟩
  show d.msg.replying d.clock 0x10#8 .ok [] = _
  rw [clock, queued, List.append_assoc, offerAll_append [_]]
  rfl

/-- Settles O40: the ends of LINE RUN. -/
theorem lineRunEntersRun : Obligations.LineRunEntersRun := by
  unfold Obligations.LineRunEntersRun
  intro s rest h
  refine ⟨fun entered state enters => ?_, fun state => ?_, fun state busy => ?_, fun state => ?_⟩
  · have past : s.line.state ≠ .startup := by
      rw [state]
      rcases enters with ⟨e, _⟩ | e <;> rw [e] <;> decide
    rw [← state] at enters
    refine ⟨fun within => ?_, fun shaped beyond => lineRun_faults h past state enters shaped beyond⟩
    rw [exec_lineRun past h]
    refine (serve_replied h rfl (judge := lineOrder 0 orderRun) (after := enterRun _)
      (orderRun_enters (b := s.toBlock.setMsg (s.msg.serving 0x10#8 rest)) enters)).trans ?_
    rw [enterRun_within (b := s.toBlock.setMsg (s.msg.serving 0x10#8 rest)) state within]
    rfl
  · rw [exec_lineRun (by rw [state]; decide) h]
    exact serve_answered h rfl (orderRun_inRun (b := s.toBlock.setMsg (s.msg.serving 0x10#8 rest)) state)
  · rw [exec_lineRun (by rw [state]; decide) h]
    exact serve_refused h rfl (orderRun_busy (b := s.toBlock.setMsg (s.msg.serving 0x10#8 rest)) state busy)
  · have past : s.line.state ≠ .startup := by rcases state with e | e <;> rw [e] <;> decide
    rw [exec_lineRun past h]
    exact serve_refused h rfl (orderRun_refused (b := s.toBlock.setMsg (s.msg.serving 0x10#8 rest)) state)

/-! ### The flush (R52) -/

theorem flush_eq (b : Block) :
    flush b =
      { b with
        lists := Four.all4 []
        track := ⟨[], (b.track.table.map ParticleRecord.abort).foldl countOutcomes b.track.outcomes⟩
        msg := offerAll (resultsOf (b.track.table.map ParticleRecord.abort)) b.msg } := by
  have all : (b.track.table.map ParticleRecord.abort).filter (·.finished) = b.track.table.map ParticleRecord.abort := by
    refine List.filter_eq_self.mpr fun r mem => ?_
    obtain ⟨q, _, rfl⟩ := List.mem_map.mp mem
    exact q.abort_finished
  have none_stays : (b.track.table.map ParticleRecord.abort).filter (fun r => !r.finished) = [] := by
    refine List.filter_eq_nil_iff.mpr fun r mem => ?_
    obtain ⟨q, _, rfl⟩ := List.mem_map.mp mem
    simp [q.abort_finished]
  unfold flush
  rw [retireFinished_eq]
  simp only [Block.setTable_track, Block.setLists_track, all, none_stays]
  rfl

/-- Settles O41: the ends of the two orders. -/
theorem standbyOrdersEndTheRun : Obligations.StandbyOrdersEndTheRun := by
  unfold Obligations.StandbyOrdersEndTheRun
  intro s rest
  have stands {l : LineState} (h : l = .standby ∨ l = .halt ∨ l = .fault) : l ≠ .startup := by
    rcases h with e | e | e <;> rw [e] <;> decide
  refine ⟨fun h => ⟨fun new run hnew => ?_, fun draining => ?_, fun still => ?_⟩,
    fun h => ⟨fun left aborted state running haborted => ?_, fun still => ?_⟩⟩
  · have noFault : new ≠ .fault := by
      rw [hnew]
      split <;> decide
    have drains : lineOrder 1 orderDrain [1#8] (s.toBlock.setMsg (s.msg.serving 0x10#8 rest)) = _ :=
      orderDrain_run (b := s.toBlock.setMsg (s.msg.serving 0x10#8 rest)) run
    rw [show (s.toBlock.setMsg (s.msg.serving 0x10#8 rest)).track.table = s.track.table from rfl, ← hnew,
      enterLine_eq (left := .run) .drain ?inRun noFault] at drains
    case inRun => exact run
    rw [exec_lineStandbyDrain (by rw [run]; decide) h]
    exact serve_replied h rfl drains
  · rw [exec_lineStandbyDrain (by rw [draining]; decide) h]
    exact serve_answered h rfl (orderDrain_draining (b := s.toBlock.setMsg (s.msg.serving 0x10#8 rest)) draining)
  · rw [exec_lineStandbyDrain (stands still) h]
    exact serve_refused h rfl (orderDrain_refused (b := s.toBlock.setMsg (s.msg.serving 0x10#8 rest)) still)
  · have past : s.line.state ≠ .startup := by
      rw [state]
      rcases running with e | e <;> rw [e] <;> decide
    have flushes : lineOrder 2 orderFlush [2#8] (s.toBlock.setMsg (s.msg.serving 0x10#8 rest)) = _ :=
      orderFlush_running (b := s.toBlock.setMsg (s.msg.serving 0x10#8 rest)) (state ▸ running)
    rw [flush_eq, enterLine_eq (left := left) .flush ?there (by decide)] at flushes
    case there => exact state
    rw [exec_lineStandbyFlush past h, haborted, offerAll_append]
    exact serve_replied h rfl flushes
  · rw [exec_lineStandbyFlush (stands still) h]
    exact serve_refused h rfl (orderFlush_refused (b := s.toBlock.setMsg (s.msg.serving 0x10#8 rest)) still)

/-! ### LINE SET (R5, R6, R8) -/

theorem lineSettingsOk_iff (slice stale : Nat) :
    lineSettingsOk slice stale = true ↔ 1 ≤ slice ∧ slice ≤ 256 ∧ 1 ≤ stale ∧ stale ≤ 16777215 := by
  simp [lineSettingsOk, and_assoc]

/-- Settles O42: LINE SET's own checks. -/
theorem lineSetWritesThreeSettings : Obligations.LineSetWritesThreeSettings := by
  unfold Obligations.LineSetWritesThreeSettings
  intro s p rest slice limit stale h open_ past length hslice hlimit hstale
  have row : exec .lineSet s = serve (kindIs 0x11) ownLineSet s := serve_edit h rfl past open_ length _
  subst hslice hlimit hstale
  rw [row]
  refine ⟨fun standby low high low' high' => ?_, fun other => ?_, fun standby bad => ?_⟩
  · refine serve_replied h rfl (after := writeLineSettings (field p 0 2) (field p 2 2) (field p 4 3)
      (s.toBlock.setMsg (s.msg.serving 0x11#8 rest))) ?_
    unfold ownLineSet
    rw [if_neg (by simpa using standby), if_pos ((lineSettingsOk_iff _ _).mpr ⟨low, high, low', high'⟩)]
    rfl
  · exact serve_refused h rfl (if_pos other)
  · refine serve_refused h rfl ?_
    have out : ¬ lineSettingsOk (field p 0 2) (field p 4 3) = true := by
      rw [lineSettingsOk_iff]
      omega
    unfold ownLineSet
    rw [if_neg (by simpa using standby), if_neg out]

end Sys2Proof.Machine
end

section
/-! PROOFS. The requests to stations (R58, R61, R64, R68, R110 to R116, R122, R137). -/

namespace Sys2Proof.Machine

/-- The machine's part while the frame at the head of the buffer is served. -/
abbrev State.during (s : State) (kind : Byte) (rest : List Frame) : Block := s.toBlock.setMsg (s.msg.serving kind rest)

/-! ### STATION SET -/

theorem kindOf_none {n : Nat} (h : 4 ≤ n) : kindOf n = none := by
  match n, h with
  | _ + 4, _ => rfl

theorem kindOf_code {n : Nat} {kind : StationKind} {most : Nat}
    (h : (n, kind, most) ∈ [(0, StationKind.none, 64), (1, .nozzle, 64), (2, .coil, 16), (3, .flap, 1)]) :
    kindOf n = some kind ∧ maxChannels kind = most := by
  simp only [List.mem_cons, Prod.mk.injEq, List.not_mem_nil, or_false] at h
  rcases h with ⟨rfl, rfl, rfl⟩ | ⟨rfl, rfl, rfl⟩ | ⟨rfl, rfl, rfl⟩ | ⟨rfl, rfl, rfl⟩ <;> exact ⟨rfl, rfl⟩

theorem field_drop (l : List Byte) (skip start size : Nat) :
    field (l.drop skip) start size = field l (skip + start) size := by
  unfold field
  rw [List.drop_drop]

theorem stationSettingsOf_drop {p : List Byte} {kind : StationKind} (h : kindOf (field p 1 1) = some kind) :
    stationSettingsOf (p.drop 1) =
      some
        { kind := kind, firstOutput := field p 2 1, channels := field p 3 1, leadDistance := field p 4 3
          latency := field p 7 3, horizon := field p 10 1, maxOn := field p 11 2, maxOnTime := field p 13 3
          minGap := field p 16 1, concurrency := field p 17 1, confirmWindow := field p 18 3
          settleTime := field p 21 2 } := by
  simp only [stationSettingsOf, field_drop, Nat.reduceAdd, h, Option.map_some]

theorem stationSettingsOf_drop_none {p : List Byte} (h : 4 ≤ field p 1 1) : stationSettingsOf (p.drop 1) = none := by
  have named : kindOf (field (p.drop 1) 0 1) = none := by
    rw [field_drop]
    exact kindOf_none h
  rw [stationSettingsOf, named, Option.map_none]

theorem overlapsOther_iff (b : Block) (st : StationId) (c : StationSettings) :
    overlapsOther b st c = true ↔ ∃ other, other ≠ st ∧ rangesShare c (b.settings.stations.get other) = true := by
  simp [overlapsOther, Block.config, mem_allStations]

section
variable {b : Block} {st : StationId} {p : List Byte} {c : StationSettings}

theorem ownStationSet_state (h : (b.stations.get st).state ≠ .disarmed) : ownStationSet st p b = refuse .wrongState b :=
  if_pos h

theorem ownStationSet_kind (disarmed : (b.station st).state = .disarmed)
    (h : stationSettingsOf (p.drop 1) = none) : ownStationSet st p b = refuse .badArg b := by
  unfold ownStationSet
  rw [if_neg (by simp [disarmed] : ¬ (b.station st).state ≠ .disarmed), h]

theorem ownStationSet_bad (disarmed : (b.station st).state = .disarmed)
    (h : stationSettingsOf (p.drop 1) = some c) (bad : stationSettingsOk c = false ∨ overlapsOther b st c = true) :
    ownStationSet st p b = refuse .badArg b := by
  unfold ownStationSet
  rw [if_neg (by simp [disarmed] : ¬ (b.station st).state ≠ .disarmed), h]
  exact if_pos (by simpa using bad)

theorem ownStationSet_good (disarmed : (b.station st).state = .disarmed)
    (h : stationSettingsOf (p.drop 1) = some c) (good : stationSettingsOk c = true) (apart : overlapsOther b st c = false) :
    ownStationSet st p b = answer (writeStation st c b) [] := by
  unfold ownStationSet
  rw [if_neg (by simp [disarmed] : ¬ (b.station st).state ≠ .disarmed), h]
  exact if_neg (by simp [good, apart])

end

theorem exec_stationSet {s : State} {p : List Byte} {rest : List Frame} (h : Serving s 0x20#8 p rest)
    (past : s.line.state ≠ .startup) (open_ : EditsOpen s) (length : p.length = 23) :
    exec .stationSet s = serve (kindIs 0x20) (forStation ownStationSet) s := serve_edit h rfl past open_ length _

/-- Settles O43: STATION SET's checks in their order. -/
theorem stationSetReplacesTheRecord : Obligations.StationSetReplacesTheRecord := by
  unfold Obligations.StationSetReplacesTheRecord
  intro s p rest h open_ past length
  rw [exec_stationSet h past open_ length]
  refine ⟨fun noStation => serve_refused h rfl (forStation_none noStation _), fun st station => ⟨fun armed => ?_,
    fun disarmed => ⟨fun noKind => ?_, fun kind most c code hc => ⟨fun good apart => ?_, fun bad => ?_⟩⟩⟩⟩
  · exact serve_refused h rfl ((forStation_of station _).trans (ownStationSet_state (b := s.during 0x20#8 rest) armed))
  · exact serve_refused h rfl ((forStation_of station _).trans
      (ownStationSet_kind (b := s.during 0x20#8 rest) disarmed (stationSettingsOf_drop_none noKind)))
  · obtain ⟨named, limit⟩ := kindOf_code code
    have carried : stationSettingsOf (p.drop 1) = some c := (stationSettingsOf_drop named).trans (congrArg some hc.symm)
    have kindIs : c.kind = kind := by rw [hc]
    have fits : stationSettingsOk c = true := (stationSettingsOk_iff c).mpr (by rwa [kindIs, limit])
    have alone : overlapsOther (s.during 0x20#8 rest) st c = false := by
      refine Bool.eq_false_iff.mpr fun shares => ?_
      obtain ⟨other, distinct, share⟩ := (overlapsOther_iff _ st c).mp shares
      obtain ⟨hasRange, otherHas, below, above⟩ := (rangesShare_iff c _).mp share
      rcases apart other _ distinct rfl (kindIs ▸ hasRange) otherHas with before | after
      · exact absurd above (Nat.not_lt.mpr before)
      · exact absurd below (Nat.not_lt.mpr after)
    exact serve_replied h rfl ((forStation_of station _).trans
      (ownStationSet_good (b := s.during 0x20#8 rest) disarmed carried fits alone))
  · obtain ⟨named, limit⟩ := kindOf_code code
    have carried : stationSettingsOf (p.drop 1) = some c := (stationSettingsOf_drop named).trans (congrArg some hc.symm)
    have kindIs : c.kind = kind := by rw [hc]
    refine serve_refused h rfl ((forStation_of station _).trans
      (ownStationSet_bad (b := s.during 0x20#8 rest) disarmed carried ?_))
    rcases bad with outside | ⟨other, d, distinct, hd, hasRange, otherHas, below, above⟩
    · refine .inl (Bool.eq_false_iff.mpr fun fits => outside ?_)
      have good := (stationSettingsOk_iff c).mp fits
      rwa [kindIs, limit] at good
    · subst hd
      exact .inr ((overlapsOther_iff _ st c).mpr
        ⟨other, distinct, (rangesShare_iff c _).mpr ⟨kindIs ▸ hasRange, otherHas, below, above⟩⟩)

/-! ### ARM -/

theorem exec_arm {s : State} {p : List Byte} {rest : List Frame} (h : Serving s 0x21#8 p rest)
    (past : s.line.state ≠ .startup) (length : p.length = 1) :
    exec .arm s = serve (kindIs 0x21) (forStation ownArm) s := serve_plain h rfl past length _

section
variable {b : Block} {st : StationId} {p : List Byte}

theorem ownArm_line (h : b.line.state = .halt ∨ b.line.state = .fault) : ownArm st p b = refuse .wrongState b := if_pos h

variable (clear : ¬ (b.line.state = .halt ∨ b.line.state = .fault))

include clear

theorem ownArm_already (h : (b.stations.get st).state = .arming ∨ (b.stations.get st).state = .armed) :
    ownArm st p b = answer b [] := by
  unfold ownArm Block.station
  rw [if_neg clear]
  rcases h with state | state <;> rw [state]

theorem ownArm_cannot
    (h : (b.stations.get st).state = .faulted ∨
      (b.stations.get st).state = .disarmed ∧ ((b.settings.stations.get st).kind = .none ∨ allFaulted b st = true)) :
    ownArm st p b = refuse .wrongState b := by
  unfold ownArm Block.station
  rw [if_neg clear]
  rcases h with state | ⟨state, without⟩
  · rw [state]
  · rw [state]
    exact if_pos without

variable (disarmed : (b.stations.get st).state = .disarmed)
  (able : ¬ ((b.settings.stations.get st).kind = .none ∨ allFaulted b st = true))

include disarmed able

theorem ownArm_disarmed :
    ownArm st p b =
      if insideBoards (b.settings.stations.get st) b.chain.boards = true then answer (startArming st b) []
      else refuse .noBoard b := by
  unfold ownArm Block.station
  rw [if_neg clear, disarmed]
  exact if_neg able

end

section
variable {b : Block} {st : StationId} (disarmed : (b.stations.get st).state = .disarmed)

include disarmed

theorem startArming_waits (h : 0 < (b.settings.stations.get st).settleTime) :
    startArming st b =
      { b with
        stations :=
          b.stations.set st { b.stations.get st with state := .arming, enable := true, settle := some b.clock }
        msg := offerReport (.stationNotice st .disarmed .arming .arm 0) b.msg } := by
  rw [← disarmed]
  exact if_neg (Nat.ne_of_gt h)

theorem startArming_armed (h : (b.settings.stations.get st).settleTime = 0) :
    startArming st b =
      { b with
        stations :=
          b.stations.set st
            { b.stations.get st with
              state := .armed
              enable := true
              settle := none
              channels := (b.stations.get st).channels.map Channel.quiet }
        msg :=
          offerReport (.stationNotice st .arming .armed .settle 0)
            (offerReport (.stationNotice st .disarmed .arming .arm 0) b.msg) } := by
  rw [← disarmed]
  refine (if_pos h).trans ?_
  simp [becomeArmed, stationNotice, Block.report, Block.setStation, Block.setMsg, Block.station]

end

theorem insideBoards_iff (c : StationSettings) (boards : Nat) :
    insideBoards c boards = true ↔ c.firstOutput + c.channels - 1 < 32 * boards := decide_eq_true_iff

/-- Settles O44: ARM's checks in their order, and both ways it arms. -/
theorem armStartsTheSettleTime : Obligations.ArmStartsTheSettleTime := by
  unfold Obligations.ArmStartsTheSettleTime
  intro s p rest h length
  refine ⟨fun starting => serve_refused h rfl (judged_startup (b := s.during 0x21#8 rest) starting), fun past noStation => ?_, ?_⟩
  · rw [exec_arm h past length]
    exact serve_refused h rfl (forStation_none noStation _)
  intro st c past station hc
  subst hc
  rw [exec_arm h past length]
  have own {out : Block × Option Reply} (is : ownArm st p (s.during 0x21#8 rest) = out) :
      forStation ownArm p (s.during 0x21#8 rest) = out := (forStation_of station _).trans is
  refine ⟨fun stopped => serve_refused h rfl (own (ownArm_line (b := s.during 0x21#8 rest) stopped)), fun notHalt notFault => ?_⟩
  have clear : ¬ (s.line.state = .halt ∨ s.line.state = .fault) := by simp [notHalt, notFault]
  refine ⟨fun already => ?_, fun cannot => ?_, fun disarmed hasKind some_ok => ?_⟩
  · exact serve_answered h rfl (own (ownArm_already (b := s.during 0x21#8 rest) clear already))
  · exact serve_refused h rfl (own (ownArm_cannot (b := s.during 0x21#8 rest) clear cannot))
  · have able : ¬ ((s.settings.stations.get st).kind = .none ∨ allFaulted s.toBlock st = true) := by
      simp [hasKind, some_ok]
    have arms := own (ownArm_disarmed (b := s.during 0x21#8 rest) clear disarmed able)
    refine ⟨fun outside => ?_, fun inside => ?_⟩
    · exact serve_refused h rfl (arms.trans (if_neg fun fits => absurd ((insideBoards_iff _ _).mp fits) (Nat.not_lt.mpr outside)))
    · have armed := arms.trans (if_pos ((insideBoards_iff _ _).mpr inside))
      refine ⟨fun settles => ?_, fun atOnce => ?_⟩
      · rw [startArming_waits (b := s.during 0x21#8 rest) disarmed settles] at armed
        exact serve_replied h rfl armed
      · rw [startArming_armed (b := s.during 0x21#8 rest) disarmed atOnce] at armed
        exact serve_replied h rfl armed

/-! ### DISARM -/

theorem exec_disarm {s : State} {p : List Byte} {rest : List Frame} (h : Serving s 0x22#8 p rest)
    (past : s.line.state ≠ .startup) (length : p.length = 1) :
    exec .disarm s = serve (kindIs 0x22) (forStation ownDisarm) s := serve_plain h rfl past length _

theorem stationLeft_updateSlot (st : StationId) (t : List ParticleRecord) :
    t.map (ParticleRecord.updateSlot st Slot.stationLeft) =
      t.map fun r =>
        r.updateSlot st fun sl =>
          if sl.state = .committed then
            { sl with state := .final .masked, figures := sl.figures.map fun g => { g with entries := 0 } }
          else if sl.state = .active then
            { sl with state := .final .aborted, figures := sl.figures.map fun g => { g with entries := 0 } }
          else sl := by
  rw [show Slot.stationLeft = _ from funext stationLeft_eq]
  rfl

/-- A station that leaves ARMED otherwise than by its fault, in one piece (R115, R42, R58). -/
theorem leaveArmed_disarmed (st : StationId) (cause : StationCause) (b : Block) {table : List ParticleRecord}
    (htable : table = b.track.table.map (ParticleRecord.updateSlot st Slot.stationLeft)) :
    leaveArmed st .disarmed cause b =
      { b with
        lists := b.lists.set st []
        track :=
          { table := table.filter fun r => !r.finished
            outcomes := (table.filter (·.finished)).foldl countOutcomes b.track.outcomes }
        settings := (setHolds st b).settings
        stations := b.stations.set st ((b.stations.get st).left .disarmed)
        maint := b.maintWithout st
        msg :=
          offerAll
            (resultsOf (table.filter (·.finished)) ++ b.abandonedReports st ++
              [.stationNotice st .armed .disarmed cause (holdCount st b)]) b.msg } := by
  subst htable
  have names : holdCount st (abandonMaintenance st (setHolds st (retireFinished (withdrawStation st b)))) =
      holdCount st b := by
    rw [abandonMaintenance_whole, retireFinished_eq]
    exact holdCount_setHolds st b
  have reports : (setHolds st (retireFinished (withdrawStation st b))).abandonedReports st = b.abandonedReports st := by
    rw [retireFinished_eq]
    rfl
  unfold leaveArmed
  dsimp only
  rw [if_neg (by decide), names, abandonMaintenance_whole, reports, retireFinished_eq, offerAll_append, offerAll_append]
  rfl

theorem disarmStation_armed {b : Block} {st : StationId} (cause : StationCause) (h : (b.stations.get st).state = .armed) :
    disarmStation cause b st = leaveArmed st .disarmed cause b := by
  unfold disarmStation Block.station
  rw [h]

theorem disarmStation_unarmed {b : Block} {st : StationId} (cause : StationCause)
    (h : (b.stations.get st).state = .arming ∨ (b.stations.get st).state = .faulted) :
    disarmStation cause b st = becomeDisarmed st cause b := by
  unfold disarmStation Block.station
  rcases h with state | state <;> rw [state]

theorem disarmStation_disarmed {b : Block} {st : StationId} (cause : StationCause)
    (h : (b.stations.get st).state = .disarmed) : disarmStation cause b st = b := by
  unfold disarmStation Block.station
  rw [h]

/-- The end of a drain, in one piece (R137). -/
theorem drainDone_whole {b : Block} {drained : Bool}
    (h : drained = decide (b.line.state = .draining ∧ b.track.table = [])) :
    drainDone b =
      { b with
        line := if drained = true then { b.line with state := .standby } else b.line
        msg :=
          offerAll (if drained = true then [.lineNotice .draining .standby .drainDone .none] else []) b.msg } := by
  by_cases ends : b.line.state = .draining ∧ b.track.table = []
  · have is : drained = true := h.trans (decide_eq_true ends)
    rw [is]
    exact drainDone_eq ends.1 ends.2
  · have is : drained = false := h.trans (decide_eq_false ends)
    rw [is]
    exact if_neg ends

/-- Settles O45: DISARM in each state of the station. -/
theorem disarmTakesTheStationOut : Obligations.DisarmTakesTheStationOut := by
  unfold Obligations.DisarmTakesTheStationOut
  refine ⟨fun s p rest h past length noStation => ?_, fun s p rest st h past length station => ?_⟩
  · rw [exec_disarm h past length]
    exact serve_refused h rfl (forStation_none noStation _)
  rw [exec_disarm h past length]
  have own {out : Block} (is : drainDone (disarmStation .disarm (s.during 0x22#8 rest) st) = out) :
      forStation ownDisarm p (s.during 0x22#8 rest) = (out, some ⟨.ok, []⟩) :=
    (forStation_of station _).trans (congrArg (answer · []) is)
  refine ⟨fun table kept gone drained armed htable hkept hgone hdrained => ?_, fun left state unarmed busy => ?_,
    fun disarmed busy => ?_⟩
  · subst hkept hgone
    have leaves := leaveArmed_disarmed st .disarm (s.during 0x22#8 rest)
      (htable.trans (stationLeft_updateSlot st s.track.table).symm)
    have ends := disarmStation_armed (b := s.during 0x22#8 rest) .disarm armed
    refine (serve_replied h rfl (own ((congrArg drainDone (ends.trans leaves)).trans (drainDone_whole hdrained)))).trans ?_
    rw [offerAll_append _ (if drained = true then _ else _)]
    rfl
  · have stays : s.line.state ≠ .draining ∨ s.track.table ≠ [] := or_iff_not_imp_left.mpr fun d => busy (not_not.mp d)
    have ends := disarmStation_unarmed (b := s.during 0x22#8 rest) (st := st) .disarm (by rw [← state] at unarmed; exact unarmed)
    subst state
    exact serve_replied h rfl (own ((congrArg drainDone ends).trans
      (drainDone_not (b := becomeDisarmed st .disarm (s.during 0x22#8 rest)) stays)))
  · have stays : s.line.state ≠ .draining ∨ s.track.table ≠ [] := or_iff_not_imp_left.mpr fun d => busy (not_not.mp d)
    have ends := disarmStation_disarmed (b := s.during 0x22#8 rest) .disarm disarmed
    exact serve_replied h rfl (own ((congrArg drainDone ends).trans (drainDone_not (b := s.during 0x22#8 rest) stays)))

/-! ### CLEAR CHANNEL -/

theorem exec_clearChannel {s : State} {p : List Byte} {rest : List Frame} (h : Serving s 0x24#8 p rest)
    (past : s.line.state ≠ .startup) (length : p.length = 2) :
    exec .clearChannel s = serve (kindIs 0x24) (forStation ownClearChannel) s := serve_plain h rfl past length _

theorem cleared_eq (c : Channel) :
    c.cleared = if c.fault = none then c else { c with fault := none, confirm := none, stuck := 0 } := by
  unfold Channel.cleared
  cases fault : c.fault with
  | none => simp
  | some f => simp

theorem cleared_fault (c : Channel) : c.cleared.fault = none := by
  rw [cleared_eq]
  split
  next ok => exact ok
  next => rfl

/-- A cleared channel of the station is OK, so the station is not all FAULTED. -/
theorem allFaulted_cleared {b : Block} {st : StationId} {ch : Nat} {c : Channel}
    (h : (b.stations.get st).channels[ch]? = some c) (inside : ch < (b.settings.stations.get st).channels) :
    allFaulted (updateChannel st ch Channel.cleared b) st = false := by
  rw [updateChannel_of_get h, Bool.eq_false_iff, Ne, allFaulted_iff]
  intro all
  have ok : channelOk
      { b with
        stations :=
          b.stations.set st
            { b.stations.get st with channels := (b.stations.get st).channels.set ch c.cleared } } st ch = true := by
    refine (channelOk_of_get (z := c.cleared) ?_).mpr (cleared_fault c)
    obtain ⟨low, -⟩ := List.getElem?_eq_some_iff.mp h
    simp [low]
  exact absurd ok (Bool.eq_false_iff.mp (all ch inside))

section
variable {b : Block} {st : StationId} {ch : Nat} {c : Channel} (h : (b.stations.get st).channels[ch]? = some c)

include h

theorem clearChannel_kept (state : (b.stations.get st).state ≠ .faulted) :
    clearChannel st ch b =
      { b with
        stations :=
          b.stations.set st
            { b.stations.get st with channels := (b.stations.get st).channels.set ch c.cleared } } :=
  (if_neg fun both => state both.1).trans (updateChannel_of_get h)

theorem clearChannel_disarms (inside : ch < (b.settings.stations.get st).channels)
    (state : (b.stations.get st).state = .faulted) :
    clearChannel st ch b =
      { b with
        stations :=
          b.stations.set st
            { b.stations.get st with
              state := .disarmed
              settle := none
              enable := false
              channels := (b.stations.get st).channels.set ch c.cleared }
        msg := offerReport (.stationNotice st .faulted .disarmed .clearChannel 0) b.msg } := by
  refine (if_pos ⟨state, allFaulted_cleared h inside⟩).trans ?_
  rw [updateChannel_of_get h, ← state]
  simp [becomeDisarmed, stationNotice, Block.report, Block.setStation, Block.setMsg, Block.station]

end

/-- Settles O46: the channel cleared, and the station it takes out of FAULTED. -/
theorem clearChannelReturnsItToOk : Obligations.ClearChannelReturnsItToOk := by
  unfold Obligations.ClearChannelReturnsItToOk
  refine ⟨fun s p rest h past length noStation => ?_, fun s p rest st h past length station beyond => ?_,
    fun s p rest st ch c cleared h past length station hch get hcleared inside => ?_⟩
  · rw [exec_clearChannel h past length]
    exact serve_refused h rfl (forStation_none noStation _)
  · rw [exec_clearChannel h past length]
    exact serve_refused h rfl ((forStation_of station _).trans
      (if_neg (c := field p 1 1 < ((s.during 0x24#8 rest).config st).channels) (Nat.not_lt.mpr beyond)))
  · subst hch
    rw [← cleared_eq] at hcleared
    subst hcleared
    rw [exec_clearChannel h past length]
    have own {out : Block} (is : clearChannel st (field p 1 1) (s.during 0x24#8 rest) = out) :
        forStation ownClearChannel p (s.during 0x24#8 rest) = (out, some ⟨.ok, []⟩) :=
      (forStation_of station _).trans ((if_pos inside).trans (congrArg (answer · []) is))
    exact ⟨fun state => serve_replied h rfl (own (clearChannel_kept (b := s.during 0x24#8 rest) get state)),
      fun state => serve_replied h rfl (own (clearChannel_disarms (b := s.during 0x24#8 rest) get inside state))⟩

/-! ### FLOOR, RANK RESET, RELEASE HOLDS -/

theorem exec_floor {s : State} {p : List Byte} {rest : List Frame} (h : Serving s 0x23#8 p rest)
    (past : s.line.state ≠ .startup) (length : p.length = 3) :
    exec .floor s = serve (kindIs 0x23) (forStation ownFloor) s := serve_plain h rfl past length _

theorem released_eq (b : Block) (e : RouteEntry) :
    released b e =
      if e.hold = true ∧ ∀ st, e.stations.get st = true → (b.stations.get st).state = .armed then
        { e with hold := false }
      else e := by
  have all : allArmed b e = true ↔ ∀ st, e.stations.get st = true → (b.stations.get st).state = .armed := by
    simp [allArmed, mem_allStations, Block.station, ← Bool.not_eq_true, imp_iff_not_or]
  unfold released
  simp only [Bool.and_eq_true, all]

section
variable {b : Block} {st : StationId} {p : List Byte}

theorem ownFloor_good (eject : field p 1 1 ≤ 15) (shield : field p 2 1 ≤ 15) :
    ownFloor st p b =
      answer (b.setSettings { b.settings with floors := b.settings.floors.set st ⟨field p 1 1, field p 2 1⟩ }) [] :=
  if_pos ⟨eject, shield⟩

theorem ownFloor_bad (h : 15 < field p 1 1 ∨ 15 < field p 2 1) : ownFloor st p b = refuse .badArg b :=
  if_neg (by omega)

end

/-- Settles O47: each request by its own write. -/
theorem floorRanksAndHoldsAreSet : Obligations.FloorRanksAndHoldsAreSet := by
  unfold Obligations.FloorRanksAndHoldsAreSet
  intro s p rest past
  refine ⟨fun h length => ?_, fun h => ?_, fun routes h open_ hroutes => ?_⟩
  · rw [exec_floor h past length]
    refine ⟨fun st station eject shield => ?_, fun bad => ?_⟩
    · exact serve_replied h rfl ((forStation_of station _).trans (ownFloor_good eject shield))
    · by_cases noStation : 4 ≤ field p 0 1
      · exact serve_refused h rfl (forStation_none noStation _)
      · obtain ⟨st, station⟩ : ∃ st : StationId, field p 0 1 = st.val := ⟨⟨field p 0 1, by omega⟩, rfl⟩
        exact serve_refused h rfl ((forStation_of station _).trans (ownFloor_bad (bad.resolve_left noStation)))
  · exact (serve_plain h rfl past rfl _).trans (serve_replied h rfl (judge := ownRankReset) rfl)
  · have set : s.settings.routes.map (released (s.during 0x33#8 rest)) = routes := by
      rw [hroutes]
      exact List.map_congr_left fun e _ => released_eq _ e
    have releases : ownReleaseHolds [] (s.during 0x33#8 rest) =
        answer ((s.during 0x33#8 rest).setSettings { s.settings with routes := routes })
          (byte (routes.countP fun e => e.hold)) := by
      rw [← set]
      rfl
    exact (serve_edit h rfl past open_ rfl _).trans (serve_replied h rfl (judge := ownReleaseHolds) releases)

end Sys2Proof.Machine
end

section
/-! PROOFS. The pointer's moves, WRITE and PARTITION (R55, R56, R60, R66, R70 to R72, R160, R162). -/

namespace Sys2Proof.Machine

/-! ### The pointer's moves -/

/-- A region with an index in it is the region of that index. -/
theorem region_of {part : Partition} {t : TableName} {i low high : Nat} (step : PointerStep)
    (h : (t, low, high) ∈
      [(TableName.route, 0, 63), (TableName.pattern, 0, 7), (TableName.pattern, 8, 7 + part.ramPatterns)])
    (above : low ≤ i) (below : i ≤ high) : Pointer.region ⟨t, i, step⟩ part = (low, high) := by
  simp only [List.mem_cons, Prod.mk.injEq, List.not_mem_nil, or_false] at h
  rcases h with ⟨rfl, rfl, rfl⟩ | ⟨rfl, rfl, rfl⟩ | ⟨rfl, rfl, rfl⟩
  · rfl
  · exact if_pos (show i < 8 by omega)
  · exact if_neg (show ¬ i < 8 by omega)

/-- Settles O49: the move by the region of the pointer's index. -/
theorem pointerWrapsWithinItsRegion : Obligations.PointerWrapsWithinItsRegion := by
  unfold Obligations.PointerWrapsWithinItsRegion
  intro part t i low high h above below
  have region (step : PointerStep) := region_of step h above below
  refine ⟨rfl, ?_, ?_⟩
  · unfold Pointer.move
    rw [region]
  · unfold Pointer.move
    rw [region]

/-! ### WRITE on the ROUTE table -/

theorem entriesOf_of_length {size n : Nat} {p : List Byte} (pos : 0 < size) (h : p.length = size * n) :
    entriesOf size p = (List.range n).map fun i => (p.drop (size * i)).take size := by
  unfold entriesOf
  rw [h, Nat.mul_div_cancel_left n pos]
  simp only [Nat.mul_comm]

/-- An entry that is carried off keeps its hold: a station of its set is not ARMED (R56, R60). -/
def keepsHold (b : Block) (old carried : RouteEntry) : Bool := old.hold && !allArmed b carried && !carried.hold

theorem keepsHold_iff (b : Block) (old carried : RouteEntry) :
    keepsHold b old carried = true ↔
      old.hold = true ∧ carried.hold = false ∧
        ∃ st, carried.stations.get st = true ∧ (b.stations.get st).state ≠ .armed := by
  have someNot : allArmed b carried = false ↔ ∃ st, carried.stations.get st = true ∧ (b.stations.get st).state ≠ .armed := by
    simp [allArmed, mem_allStations, Block.station]
  rw [← someNot]
  simp only [keepsHold, Bool.and_eq_true, Bool.not_eq_true', and_assoc]
  exact and_congr_right fun _ => and_comm

theorem written_hold (b : Block) (old carried : RouteEntry) :
    (writtenRoute b old carried).hold = (carried.hold || keepsHold b old carried) := by
  unfold keepsHold writtenRoute heldAfterWrite
  cases carried.hold <;> simp

theorem written_kept (b : Block) (old carried : RouteEntry) :
    ((writtenRoute b old carried).hold && !carried.hold) = keepsHold b old carried := by
  unfold keepsHold writtenRoute heldAfterWrite
  cases carried.hold <;> simp

/-- The table after one more entry, and whether a hold was kept so far (R56). -/
def routeStep (b : Block) (acc : List RouteEntry × Bool) (x : Pointer × RouteEntry) : List RouteEntry × Bool :=
  let kept := keepsHold b (acc.1.getD x.1.index RouteEntry.initial) x.2
  (acc.1.set x.1.index { x.2 with hold := x.2.hold || kept }, acc.2 || kept)

/-- What a batch of route entries changes: the pointer and the routes. -/
def Block.routesWritten (b : Block) (q : Pointer) (routes : List RouteEntry) : Block :=
  { b with settings := { b.settings with routes := routes }, msg := { b.msg with pointer := q } }

theorem writeRoute_written (b : Block) (q : Pointer) (acc : List RouteEntry × Bool) (carried : RouteEntry) :
    writeRoute (b.routesWritten q acc.1, acc.2) carried =
      (b.routesWritten (q.move b.settings.partition) (routeStep b acc (q, carried)).1, (routeStep b acc (q, carried)).2) := by
  unfold routeStep
  dsimp only
  rw [← written_hold, ← written_kept]
  rfl

/-- A batch is written entry by entry at the pointers of its path. -/
theorem foldl_writeRoute (b : Block) (l : List RouteEntry) (q : Pointer) (acc : List RouteEntry × Bool) :
    l.foldl writeRoute (b.routesWritten q acc.1, acc.2) =
      let out := ((pointerPath b.settings.partition l.length q).zip l).foldl (routeStep b) acc
      (b.routesWritten (pointerAfter b.settings.partition l.length q) out.1, out.2) := by
  induction l generalizing q acc with
  | nil => rfl
  | cons e l ih =>
    rw [List.foldl_cons, writeRoute_written, ih]
    rfl

theorem routeBatch_some {part : Partition} {entries : List (List Byte)} {l : List RouteEntry}
    (names : entries.map routeOf = l.map some) (good : ∀ e ∈ l, GoodRoute part e) : routeBatch part entries = some l := by
  have valid : ((l.map some).all fun o => o.any (routeValid part)) = true := by
    simpa using fun e mem => (routeValid_iff part e).mpr (good e mem)
  unfold routeBatch
  rw [names]
  dsimp only
  rw [if_pos valid]
  simp

theorem routeBatch_none {part : Partition} {entries : List (List Byte)} {bytes : List Byte} (mem : bytes ∈ entries)
    (bad : ∀ e, SpellsRoute bytes e → ¬ GoodRoute part e) : routeBatch part entries = none := by
  refine if_neg fun all => ?_
  have valid := List.all_eq_true.mp all _ (List.mem_map_of_mem mem)
  obtain ⟨e, named, good⟩ := (Option.any_eq_true ..).mp valid
  exact bad e ((routeOf_eq_some bytes e).mp named) ((routeValid_iff part e).mp good)

theorem writeRoutes_good {b : Block} {p : List Byte} {l : List RouteEntry}
    (batch : routeBatch b.settings.partition (entriesOf 4 p) = some l) :
    writeRoutes p b =
      let out := ((pointerPath b.settings.partition l.length b.msg.pointer).zip l).foldl (routeStep b) (b.settings.routes, false)
      let after := pointerAfter b.settings.partition l.length b.msg.pointer
      (b.routesWritten after out.1, some ⟨if out.2 = true then .held else .ok, pointerBytes after⟩) := by
  have writes : l.foldl writeRoute (b, false) = _ := foldl_writeRoute b l b.msg.pointer (b.settings.routes, false)
  unfold writeRoutes
  rw [batch]
  dsimp only
  rw [writes]
  rfl

theorem writeRoutes_bad {b : Block} {p : List Byte} (batch : routeBatch b.settings.partition (entriesOf 4 p) = none) :
    writeRoutes p b = refuse .badArg b := by
  unfold writeRoutes
  rw [batch]

/-! ### WRITE on the PATTERN table -/

/-- What a batch of patterns changes: the pointer and the patterns. -/
def Block.patternsWritten (b : Block) (q : Pointer) (patterns : List Pattern) : Block :=
  { b with settings := { b.settings with patterns := patterns }, msg := { b.msg with pointer := q } }

theorem foldl_writePattern (b : Block) (l : List Pattern) (q : Pointer) (patterns : List Pattern) :
    l.foldl writePattern (b.patternsWritten q patterns) =
      b.patternsWritten (pointerAfter b.settings.partition l.length q)
        (((pointerPath b.settings.partition l.length q).zip l).foldl (fun acc x => acc.set (x.1.index - 8) x.2) patterns) := by
  induction l generalizing q patterns with
  | nil => rfl
  | cons x l ih => exact ih (q.move b.settings.partition) (patterns.set (q.index - 8) x)

theorem patternOf_slice (p : List Byte) (i : Nat) :
    patternOf ((p.drop (6 * i)).take 6) =
      ⟨field p (6 * i) 1, field p (6 * i + 1) 1, field p (6 * i + 2) 1, field p (6 * i + 3) 1,
        field p (6 * i + 4) 2⟩ := by
  simp only [patternOf, field_slice p (6 * i) 6 0 1 (by decide), field_slice p (6 * i) 6 1 1 (by decide),
    field_slice p (6 * i) 6 2 1 (by decide), field_slice p (6 * i) 6 3 1 (by decide),
    field_slice p (6 * i) 6 4 2 (by decide), Nat.add_zero]

theorem writePatterns_good {b : Block} {p : List Byte} {l : List Pattern} (hl : (entriesOf 6 p).map patternOf = l)
    (ram : 8 ≤ b.msg.pointer.index) (good : ∀ x ∈ l, GoodPattern x) :
    writePatterns p b =
      let after := pointerAfter b.settings.partition l.length b.msg.pointer
      answer
        (b.patternsWritten after
          (((pointerPath b.settings.partition l.length b.msg.pointer).zip l).foldl
            (fun acc x => acc.set (x.1.index - 8) x.2) b.settings.patterns))
        (pointerBytes after) := by
  have writes : l.foldl writePattern b = _ := foldl_writePattern b l b.msg.pointer b.settings.patterns
  have valid : l.all patternValid = true := List.all_eq_true.mpr fun x mem => (patternValid_iff x).mpr (good x mem)
  unfold writePatterns
  rw [hl]
  dsimp only
  rw [if_neg (by simp [valid, ram]), writes]
  rfl

theorem writePatterns_bad {b : Block} {p : List Byte} {l : List Pattern} (hl : (entriesOf 6 p).map patternOf = l)
    (bad : b.msg.pointer.index < 8 ∨ ∃ x ∈ l, ¬ GoodPattern x) : writePatterns p b = refuse .badArg b := by
  unfold writePatterns
  rw [hl]
  refine if_pos (bad.imp_right fun ⟨x, mem, invalid⟩ => Bool.eq_false_iff.mpr fun all => invalid ?_)
  exact (patternValid_iff x).mp (List.all_eq_true.mp all x mem)

/-! ### WRITE -/

theorem exec_write {s : State} {p : List Byte} {rest : List Frame} (h : Serving s 0x31#8 p rest)
    (past : s.line.state ≠ .startup) (open_ : EditsOpen s) {n : Nat} (low : 1 ≤ n) (high : n ≤ 8)
    (length : p.length = n * (match s.msg.pointer.table with | .route => 4 | .pattern => 6)) :
    exec .write s = serve (kindIs 0x31) ownWrite s :=
  serve_congr h rfl (judged_own (b := s.during 0x31#8 rest) past
    ((writeLengthOk_iff _ _).mpr ⟨n, low, high, length⟩) (by simp [editBarred_none open_]))

theorem ownWrite_route {b : Block} (p : List Byte) (h : b.msg.pointer.table = .route) : ownWrite p b = writeRoutes p b := by
  unfold ownWrite
  rw [h]

theorem ownWrite_pattern {b : Block} (p : List Byte) (h : b.msg.pointer.table = .pattern) :
    ownWrite p b = writePatterns p b := by
  unfold ownWrite
  rw [h]

/-- A batch that spells good entries is that batch. -/
theorem routeBatch_spelled {part : Partition} {p : List Byte} {n : Nat} {l : List RouteEntry} (length : p.length = 4 * n)
    (count : l.length = n)
    (spells : ∀ i e, l[i]? = some e → SpellsRoute ((p.drop (4 * i)).take 4) e ∧ GoodRoute part e) :
    routeBatch part (entriesOf 4 p) = some l := by
  rw [entriesOf_of_length (by decide) length]
  refine routeBatch_some (List.ext_getElem? fun i => ?_) fun e mem => ?_
  · by_cases inside : i < n
    · have is : l[i]? = some l[i] := List.getElem?_eq_getElem (by omega)
      simp [inside, is, (routeOf_eq_some _ _).mpr (spells i _ is).1]
    · simp [inside, count]
  · obtain ⟨i, is⟩ := List.mem_iff_getElem?.mp mem
    exact (spells i e is).2

/-- Settles O50: each batch by the fold of its writes along the pointer's path. -/
theorem writeFillsTheTable : Obligations.WriteFillsTheTable := by
  unfold Obligations.WriteFillsTheTable
  intro s p rest n part moved h open_ past low high hpart hmoved
  subst hpart
  have path : (List.range n).map moved = pointerPath s.settings.partition n s.msg.pointer := by
    rw [pointerPath_eq]
    exact List.map_congr_left fun i _ => hmoved i
  have after : moved n = pointerAfter s.settings.partition n s.msg.pointer := (hmoved n).trans (pointerAfter_eq _ _ _).symm
  rw [path, after]
  refine ⟨fun table length => ?_, fun table length l hl => ?_⟩
  · have own := ownWrite_route (b := s.during 0x31#8 rest) p table
    rw [exec_write h past open_ low high (by rw [table, length, Nat.mul_comm])]
    refine ⟨fun l out count spells hout => ?_, fun ⟨i, inside, bad⟩ => ?_⟩
    · have steps : ((pointerPath s.settings.partition n s.msg.pointer).zip l).foldl
          (routeStep (s.during 0x31#8 rest)) (s.settings.routes, false) = out := by
        rw [hout]
        congr 1
        funext acc x
        have kept := Bool.eq_iff_iff.mpr ((keepsHold_iff (s.during 0x31#8 rest)
          (acc.1.getD x.1.index RouteEntry.initial) x.2).trans decide_eq_true_iff.symm)
        unfold routeStep
        rw [kept]
        rfl
      have writes := writeRoutes_good (b := s.during 0x31#8 rest) (routeBatch_spelled length count spells)
      rw [count] at writes
      rw [← steps]
      exact serve_replied h rfl (own.trans writes)
    · refine serve_refused h rfl (own.trans (writeRoutes_bad (routeBatch_none ?_ bad)))
      rw [entriesOf_of_length (by decide) length]
      exact List.mem_map_of_mem (List.mem_range.mpr inside)
  · have own := ownWrite_pattern (b := s.during 0x31#8 rest) p table
    rw [exec_write h past open_ low high (by rw [table, length, Nat.mul_comm])]
    have carried : (entriesOf 6 p).map patternOf = l := by
      rw [hl, entriesOf_of_length (by decide) length, List.map_map]
      exact List.map_congr_left fun i _ => patternOf_slice p i
    have count : l.length = n := by rw [hl, List.length_map, List.length_range]
    refine ⟨fun ram good => ?_, fun bad => ?_⟩
    · have writes := writePatterns_good (b := s.during 0x31#8 rest) carried ram good
      rw [count] at writes
      exact serve_replied h rfl (own.trans writes)
    · exact serve_refused h rfl (own.trans (writePatterns_bad (b := s.during 0x31#8 rest) carried bad))

/-! ### PARTITION -/

theorem exec_partition {s : State} {p : List Byte} {rest : List Frame} (h : Serving s 0x35#8 p rest)
    (past : s.line.state ≠ .startup) (open_ : EditsOpen s) (length : p.length = 1) :
    exec .partition s = serve (kindIs 0x35) ownPartition s := serve_edit h rfl past open_ length _

theorem partitionOf_code {n : Nat} {part : Partition}
    (h : (n, part) ∈ [(0, Partition.p0), (1, .p1), (2, .p2), (3, .p3)]) : partitionOf n = some part := by
  simp only [List.mem_cons, Prod.mk.injEq, List.not_mem_nil, or_false] at h
  rcases h with ⟨rfl, rfl⟩ | ⟨rfl, rfl⟩ | ⟨rfl, rfl⟩ | ⟨rfl, rfl⟩ <;> rfl

theorem partitionOf_none {n : Nat} (h : 4 ≤ n) : partitionOf n = none := by
  match n, h with
  | _ + 4, _ => rfl

/-- A code's pattern after the change: the old one, or pattern 0 where the code is new (R72). -/
theorem carryPatterns_get {k i : Nat} (old : List Pattern) (h : i < k) :
    (carryPatterns k old)[i]? = some (if h : i < old.length then old[i] else ⟨0, 0, 0, 1, 4095⟩) := by
  unfold carryPatterns
  by_cases present : i < old.length
  · rw [dif_pos present, List.getElem?_append_left (by simp; omega), List.getElem?_take_of_lt h,
      List.getElem?_eq_getElem present]
  · rw [dif_neg present, List.getElem?_append_right (by simp; omega), List.getElem?_replicate_of_lt (by simp; omega)]
    rfl

section
variable {b : Block} {p : List Byte}

theorem ownPartition_good {part : Partition} (standby : b.line.state = .standby) (disarmed : allDisarmed b = true)
    (code : partitionOf (field p 0 1) = some part) : ownPartition p b = answer (changePartition part b) [] := by
  unfold ownPartition
  rw [if_neg (by simp [standby, disarmed]), code]

theorem ownPartition_code (standby : b.line.state = .standby) (disarmed : allDisarmed b = true)
    (code : partitionOf (field p 0 1) = none) : ownPartition p b = refuse .badArg b := by
  unfold ownPartition
  rw [if_neg (by simp [standby, disarmed]), code]

theorem ownPartition_state (h : b.line.state ≠ .standby ∨ allDisarmed b = false) :
    ownPartition p b = refuse .wrongState b := if_pos h

end

/-- Settles O51: the table of R70, and PARTITION's checks in their order. -/
theorem partitionCarriesThePatterns : Obligations.PartitionCarriesThePatterns := by
  unfold Obligations.PartitionCarriesThePatterns
  refine ⟨rfl, rfl, rfl, fun s p rest h open_ past length => ?_⟩
  rw [exec_partition h past open_ length]
  refine ⟨fun standby all => ?_, fun other => ?_⟩
  · have disarmed : allDisarmed (s.during 0x35#8 rest) = true := (allDisarmed_iff _).mpr all
    refine ⟨fun part code => ⟨carryPatterns part.ramPatterns s.settings.patterns, carryPatterns_length _ _,
      fun i inside => carryPatterns_get _ inside, ?_⟩, fun noCode => ?_⟩
    · exact serve_replied h rfl (ownPartition_good (b := s.during 0x35#8 rest) standby disarmed (partitionOf_code code))
    · exact serve_refused h rfl (ownPartition_code (b := s.during 0x35#8 rest) standby disarmed (partitionOf_none noCode))
  · refine serve_refused h rfl (ownPartition_state (b := s.during 0x35#8 rest) (other.imp_right fun ⟨st, not⟩ => ?_))
    exact Bool.eq_false_iff.mpr fun all => not ((allDisarmed_iff _).mp all st)

end Sys2Proof.Machine
end

section
/-! PROOFS. CANCEL and AMEND (R46, R48 to R50, R137). -/

namespace Sys2Proof.Machine

/-! ### The record of a tag -/

theorem exec_cancel {s : State} {p : List Byte} {rest : List Frame} (h : Serving s 0x40#8 p rest)
    (past : s.line.state ≠ .startup) (length : p.length = 2) :
    exec .cancel s = serve (kindIs 0x40) (forRecord cancelRecord) s := serve_plain h rfl past length _

theorem exec_amend {s : State} {p : List Byte} {rest : List Frame} (h : Serving s 0x41#8 p rest)
    (past : s.line.state ≠ .startup) (length : p.length = 3) :
    exec .amend s = serve (kindIs 0x41) ownAmend s := serve_plain h rfl past length _

/-- A change of the record of one tag changes what is found under that tag. -/
theorem findRecord_updateRecord {f : ParticleRecord → ParticleRecord} (keeps : ∀ q, (f q).tag = q.tag) (tag other : Nat)
    (t : List ParticleRecord) :
    findRecord other (updateRecord tag f t) =
      (findRecord other t).map fun q => if q.tag = tag then f q else q := by
  unfold findRecord updateRecord
  rw [List.find?_map]
  congr 2
  funext q
  simp only [Function.comp_apply]
  split
  · rw [keeps]
  · rfl

/-- In a table without repeated tags a record stands alone under its tag. -/
theorem found_split {t : List ParticleRecord} {tag : Nat} {r : ParticleRecord} (found : findRecord tag t = some r)
    (unique : (t.map (·.tag)).Nodup) :
    ∃ front back, t = front ++ r :: back ∧ r.tag = tag ∧ ∀ q ∈ front ++ back, q.tag ≠ tag := by
  obtain ⟨mem, hasTag⟩ := findRecord_some found
  obtain ⟨front, back, rfl⟩ := List.append_of_mem mem
  rw [List.map_append, List.map_cons, List.nodup_middle, List.nodup_cons, ← List.map_append] at unique
  exact ⟨front, back, rfl, hasTag, fun q inRest same =>
    unique.1 (List.mem_map.mpr ⟨q, inRest, same.trans hasTag.symm⟩)⟩

theorem updateRecord_of_ne {t : List ParticleRecord} {tag : Nat} (f : ParticleRecord → ParticleRecord)
    (h : ∀ q ∈ t, q.tag ≠ tag) : updateRecord tag f t = t :=
  (List.map_congr_left fun q mem => if_neg (h q mem)).trans (List.map_id t)

theorem updateRecord_split {front back : List ParticleRecord} {r : ParticleRecord} {tag : Nat}
    (f : ParticleRecord → ParticleRecord) (hasTag : r.tag = tag) (alone : ∀ q ∈ front ++ back, q.tag ≠ tag) :
    updateRecord tag f (front ++ r :: back) = front ++ f r :: back := by
  have before : updateRecord tag f front = front := updateRecord_of_ne f fun q mem => alone q (List.mem_append_left _ mem)
  have behind : updateRecord tag f back = back := updateRecord_of_ne f fun q mem => alone q (List.mem_append_right _ mem)
  unfold updateRecord at before behind ⊢
  rw [List.map_append, List.map_cons, before, behind, if_pos hasTag]

/-- The one record a request ends retires: it is counted and reported, and may end a drain (R42, R43, R137). -/
theorem settleRecords_ended {b : Block} {t : List ParticleRecord} {tag : Nat} {r ended : ParticleRecord}
    {f : ParticleRecord → ParticleRecord} {drained : Bool} (found : findRecord tag t = some r)
    (unique : (t.map (·.tag)).Nodup) (others : ∀ q ∈ t, q.tag ≠ tag → q.finished = false)
    (table : b.track.table = updateRecord tag f t) (hended : ended = f r) (done : ended.finished = true)
    (hd : drained = true ↔ b.line.state = .draining ∧ ∀ q ∈ t, q.tag = tag) :
    settleRecords b =
      { b with
        track := ⟨t.filter fun q => decide (q.tag ≠ tag), countOutcomes b.track.outcomes ended⟩
        line := if drained = true then { b.line with state := .standby } else b.line
        msg :=
          offerAll
            (resultsOf [ended] ++ (if drained = true then [.lineNotice .draining .standby .drainDone .none] else []))
            b.msg } := by
  obtain ⟨front, back, rfl, hasTag, alone⟩ := found_split found unique
  rw [updateRecord_split f hasTag alone, ← hended] at table
  have standing : ∀ q ∈ front ++ back, q.finished = false := fun q mem =>
    others q (by
      rcases List.mem_append.mp mem with inFront | inBack
      · exact List.mem_append_left _ inFront
      · exact List.mem_append_right _ (List.mem_cons_of_mem _ inBack)) (alone q mem)
  rw [List.forall_mem_append] at standing alone
  obtain ⟨frontStands, backStands⟩ := standing
  obtain ⟨frontOther, backOther⟩ := alone
  have retires : b.track.table.filter ParticleRecord.finished = [ended] := by
    rw [table, List.filter_append, List.filter_cons_of_pos done, List.filter_eq_nil_iff.mpr (by simpa using frontStands),
      List.filter_eq_nil_iff.mpr (by simpa using backStands), List.nil_append]
  have stays : b.track.table.filter (fun q => !q.finished) =
      (front ++ r :: back).filter fun q => decide (q.tag ≠ tag) := by
    rw [table, List.filter_append, List.filter_append, List.filter_cons_of_neg (by simp [done]),
      List.filter_cons_of_neg (by simp [hasTag]), List.filter_eq_self.mpr (by simpa using frontStands),
      List.filter_eq_self.mpr (by simpa using backStands), List.filter_eq_self.mpr (by simpa using frontOther),
      List.filter_eq_self.mpr (by simpa using backOther)]
  have last : (∀ q ∈ front ++ r :: back, q.tag = tag) ↔ ∀ q ∈ b.track.table, q.finished = true := by
    rw [table, List.forall_mem_append, List.forall_mem_append, List.forall_mem_cons, List.forall_mem_cons]
    have none_of {l : List ParticleRecord} (stand : ∀ q ∈ l, q.finished = false) (other : ∀ q ∈ l, q.tag ≠ tag) :
        (∀ q ∈ l, q.tag = tag) ↔ ∀ q ∈ l, q.finished = true :=
      forall₂_congr fun q mem => by simp [stand q mem, other q mem]
    rw [none_of frontStands frontOther, none_of backStands backOther]
    simp [hasTag, done]
  rw [settleRecords_one retires (hd.trans (and_congr_right fun _ => last)), stays]

/-- With no record finished and one in the table, nothing retires and no drain ends. -/
theorem settleRecords_none {b : Block} (standing : ∀ q ∈ b.track.table, q.finished = false)
    (filled : b.track.table ≠ []) : settleRecords b = b := by
  unfold settleRecords
  rw [retireFinished_none standing, drainDone_not (.inr filled)]

/-! ### CANCEL -/

theorem cancel_eq (sl : Slot) :
    sl.cancel = if sl.state = .waiting ∨ sl.state = .committed then sl.ended .cancelled else sl := by
  unfold Slot.cancel
  cases state : sl.state <;> simp

theorem withdrawTags_congr {t t' : List ParticleRecord} (h : ∀ tag, tagPriority t tag = tagPriority t' tag)
    (gone : List Nat) (l : List Entry) : withdrawTags t gone l = withdrawTags t' gone l := by
  have same : tagPriority t = tagPriority t' := funext h
  unfold withdrawTags Entry.without highestPriority
  rw [same]

theorem tagPriority_updateRecord {f : ParticleRecord → ParticleRecord} (tags : ∀ q, (f q).tag = q.tag)
    (priorities : ∀ q, (f q).priority = q.priority) (tag other : Nat) (t : List ParticleRecord) :
    tagPriority (updateRecord tag f t) other = tagPriority t other := by
  unfold tagPriority
  rw [findRecord_updateRecord tags]
  cases findRecord other t with
  | none => rfl
  | some q =>
    simp only [Option.map_some]
    split
    · exact priorities q
    · rfl

/-- The record has a COMMITTED slot at the station. -/
def ParticleRecord.CommittedAt (r : ParticleRecord) (st : StationId) : Prop :=
  ∃ sl, r.slots.get st = some sl ∧ sl.state = .committed

/-- The list of a station after CANCEL has been there (R46, R104). -/
theorem cancelAt_lists {b : Block} {tag : Nat} {r : ParticleRecord} (found : findRecord tag b.track.table = some r)
    (st other : StationId) :
    (other = st ∧ r.CommittedAt st → (cancelAt tag b st).lists.get other = withdrawTags b.track.table [tag] (b.lists.get other)) ∧
      (¬ (other = st ∧ r.CommittedAt st) → (cancelAt tag b st).lists.get other = b.lists.get other) := by
  have slotIs : findSlot tag st b.track.table = r.slots.get st := by rw [findSlot, found, Option.bind_some]
  unfold cancelAt ParticleRecord.CommittedAt
  rw [slotIs]
  cases slot : r.slots.get st with
  | none => simp
  | some sl =>
    by_cases committed : sl.state = .committed
    · by_cases here : other = st
      · simp [committed, here, Block.setList]
      · simp [committed, here, Block.setList]
    · simp [committed]

/-- What CANCEL does to the records at one station. -/
theorem cancelAt_eq {b : Block} {tag : Nat} {r : ParticleRecord} (found : findRecord tag b.track.table = some r)
    (unique : (b.track.table.map (·.tag)).Nodup) (st : StationId) :
    cancelAt tag b st =
      { b with
        lists := (cancelAt tag b st).lists
        track := { b.track with table := updateSlot tag st Slot.cancel b.track.table } } := by
  have slotIs : findSlot tag st b.track.table = r.slots.get st := by rw [findSlot, found, Option.bind_some]
  cases slot : r.slots.get st with
  | none =>
    obtain ⟨front, back, is, hasTag, alone⟩ := found_split found unique
    have same : updateSlot tag st Slot.cancel b.track.table = b.track.table := by
      rw [is, updateSlot, updateRecord_split _ hasTag alone, ParticleRecord.updateSlot, slot, Option.map_none, ← slot,
        Four.set_get]
    rw [same, cancelAt, slotIs, slot]
  | some sl =>
    rw [cancelAt, slotIs, slot]
    by_cases committed : sl.state = .committed
    · simp only [if_pos committed]
      rfl
    · simp only [if_neg committed]
      rfl

theorem updateSlot_tag (st : StationId) (f : Slot → Slot) (r : ParticleRecord) : (r.updateSlot st f).tag = r.tag := rfl

theorem updateSlot_priority (st : StationId) (f : Slot → Slot) (r : ParticleRecord) :
    (r.updateSlot st f).priority = r.priority := rfl

/-- CANCEL at some stations: the slots of the tag's record there, and the lists of those where one is COMMITTED. -/
theorem foldl_cancelAt {tag : Nat} (l : List StationId) (distinct : l.Nodup) {b : Block} {r : ParticleRecord}
    (found : findRecord tag b.track.table = some r) (unique : (b.track.table.map (·.tag)).Nodup) :
    (∀ st,
        (st ∈ l ∧ r.CommittedAt st →
          (l.foldl (cancelAt tag) b).lists.get st = withdrawTags b.track.table [tag] (b.lists.get st)) ∧
        (¬ (st ∈ l ∧ r.CommittedAt st) → (l.foldl (cancelAt tag) b).lists.get st = b.lists.get st)) ∧
      l.foldl (cancelAt tag) b =
        { b with
          lists := (l.foldl (cancelAt tag) b).lists
          track :=
            { b.track with table := l.foldl (fun t st => updateSlot tag st Slot.cancel t) b.track.table } } := by
  induction l generalizing b r with
  | nil => exact ⟨fun st => ⟨fun no => absurd no.1 List.not_mem_nil, fun _ => rfl⟩, rfl⟩
  | cons st l ih =>
    obtain ⟨fresh, distinct⟩ := List.nodup_cons.mp distinct
    have step := cancelAt_eq found unique st
    have table : (cancelAt tag b st).track.table = updateSlot tag st Slot.cancel b.track.table := by rw [step]
    have hasTag : r.tag = tag := (findRecord_some found).2
    have found' : findRecord tag (cancelAt tag b st).track.table = some (r.updateSlot st Slot.cancel) := by
      rw [table, updateSlot, findRecord_updateRecord (updateSlot_tag st _), found, Option.map_some, if_pos hasTag]
    have unique' : ((cancelAt tag b st).track.table.map (·.tag)).Nodup := by
      rw [table, updateSlot_map _ _ _ (fun _ => rfl)]
      exact unique
    obtain ⟨lists, whole⟩ := ih distinct found' unique'
    rw [List.foldl_cons]
    refine ⟨fun other => ?_, ?_⟩
    · have withdraws : withdrawTags (cancelAt tag b st).track.table [tag] = withdrawTags b.track.table [tag] := by
        funext k
        rw [table]
        exact withdrawTags_congr (fun x => tagPriority_updateRecord (updateSlot_tag st _) (updateSlot_priority st _) tag x _) _ k
      obtain ⟨hereTaken, hereKept⟩ := cancelAt_lists found st other
      obtain ⟨laterTaken, laterKept⟩ := lists other
      rw [withdraws] at laterTaken
      by_cases here : other = st
      · subst here
        have later := laterKept fun both => fresh both.1
        exact ⟨fun both => later.trans (hereTaken ⟨rfl, both.2⟩),
          fun neither => later.trans (hereKept fun both => neither ⟨List.mem_cons_self .., both.2⟩)⟩
      · have now := hereKept fun both => here both.1
        have same : (r.updateSlot st Slot.cancel).CommittedAt other ↔ r.CommittedAt other := by
          simp [ParticleRecord.CommittedAt, ParticleRecord.updateSlot, here]
        have tail : other ∈ st :: l ↔ other ∈ l := by simp [here]
        rw [tail, ← same, ← now]
        exact ⟨laterTaken, laterKept⟩
    · rw [whole, List.foldl_cons]
      dsimp only
      rw [table]
      generalize (l.foldl (cancelAt tag) (cancelAt tag b st)).lists = lists'
      rw [step]

/-- CANCEL at every station changes all the slots of the record (R46). -/
theorem cancelled_slots (tag : Nat) (t : List ParticleRecord) :
    allStations.foldl (fun t st => updateSlot tag st Slot.cancel t) t =
      updateRecord tag (fun q => { q with slots := q.slots.map (Option.map Slot.cancel) }) t := by
  show updateSlot tag 3 _ (updateSlot tag 2 _ (updateSlot tag 1 _ (updateSlot tag 0 _ t))) = _
  simp only [updateSlot, updateRecord, List.map_map]
  refine List.map_congr_left fun q _ => ?_
  by_cases hasTag : q.tag = tag
  · simp [hasTag, ParticleRecord.updateSlot]
    rfl
  · simp [hasTag]

theorem anyActive_iff (r : ParticleRecord) :
    r.anyActive = true ↔ ∃ st sl, r.slots.get st = some sl ∧ sl.state = .active := by
  have none_active : r.anyActive = false ↔ ∀ st sl, r.slots.get st = some sl → sl.state ≠ .active := by
    unfold ParticleRecord.anyActive
    rw [List.any_eq_false, Four.forall_mem_toList]
    refine forall_congr' fun st => ?_
    cases r.slots.get st with
    | none => simp
    | some sl => simp
  rw [← Bool.not_eq_false, none_active]
  push Not
  rfl

/-- The record after a CANCEL (R46). -/
def ParticleRecord.cancelled (r : ParticleRecord) : ParticleRecord :=
  { r with slots := r.slots.map (Option.map Slot.cancel) }

theorem cancelled_get (r : ParticleRecord) (st : StationId) :
    r.cancelled.slots.get st = (r.slots.get st).map Slot.cancel := Four.get_map _ _ _

theorem cancelled_finished {r : ParticleRecord} (h : ∀ st sl, r.slots.get st = some sl → sl.state ≠ .active) :
    r.cancelled.finished = true := by
  refine r.cancelled.finished_iff.mpr fun st sl at_ => ?_
  rw [cancelled_get] at at_
  obtain ⟨old, slot, rfl⟩ := Option.map_eq_some_iff.mp at_
  have notActive := h st old slot
  unfold Slot.cancel
  cases state : old.state with
  | waiting => exact ⟨_, rfl⟩
  | committed => exact ⟨_, rfl⟩
  | active => exact absurd state notActive
  | final o => exact ⟨o, state⟩

theorem cancelled_standing {r : ParticleRecord} (h : ∃ st sl, r.slots.get st = some sl ∧ sl.state = .active) :
    r.cancelled.finished = false := by
  obtain ⟨st, sl, slot, active⟩ := h
  refine Bool.eq_false_iff.mpr fun finished => ?_
  have stays : sl.cancel = sl := by rw [cancel_eq, if_neg (by simp [active])]
  obtain ⟨o, final⟩ := r.cancelled.finished_iff.mp finished st sl (by rw [cancelled_get, slot, Option.map_some, stays])
  exact SlotState.noConfusion (active.symm.trans final)

/-- Settles O52: CANCEL station by station, and what its retirement brings. -/
theorem cancelEndsWhatIsNotUnderWay : Obligations.CancelEndsWhatIsNotUnderWay := by
  unfold Obligations.CancelEndsWhatIsNotUnderWay
  intro s p rest tag h past length htag
  subst htag
  rw [exec_cancel h past length]
  refine ⟨fun missing => serve_refused h rfl (forRecord_none (b := s.during 0x40#8 rest) missing), ?_⟩
  intro r slots lists found unique others hslots hlists
  have hasTag := (findRecord_some found).2
  have slotsAre : slots = r.cancelled.slots := by
    refine Four.ext_get fun st => ?_
    rw [cancelled_get, hslots st]
    exact congrArg (Option.map · _) (funext fun sl => (cancel_eq sl).symm)
  obtain ⟨listsGet, whole⟩ := foldl_cancelAt allStations (by decide) (b := s.during 0x40#8 rest) found unique
  have listsAre : (allStations.foldl (cancelAt (field p 0 2)) (s.during 0x40#8 rest)).lists = lists := by
    refine Four.ext_get fun st => ?_
    obtain ⟨taken, kept⟩ := listsGet st
    rw [hlists st]
    split
    next committed => exact taken ⟨mem_allStations st, committed⟩
    next not => exact kept fun both => not both.2
  rw [listsAre, cancelled_slots] at whole
  have own : forRecord cancelRecord p (s.during 0x40#8 rest) =
      (settleRecords
          { s.during 0x40#8 rest with
            lists := lists
            track := { s.track with table := updateRecord (field p 0 2) ParticleRecord.cancelled s.track.table } },
        some ⟨if r.anyActive then .tooLate else .ok, []⟩) := by
    rw [forRecord_some (b := s.during 0x40#8 rest) found, cancelRecord, hasTag, whole]
    rfl
  refine ⟨fun active => ?_, fun ended drained still hended hdrained => ?_⟩
  · obtain ⟨front, back, is, -, alone⟩ := found_split found unique
    have table : updateRecord (field p 0 2) ParticleRecord.cancelled s.track.table = front ++ r.cancelled :: back := by
      rw [is]
      exact updateRecord_split _ hasTag alone
    have table' : (s.track.table.map fun q => if q.tag = field p 0 2 then { q with slots := slots } else q) =
        front ++ r.cancelled :: back := by
      rw [is, slotsAre]
      exact updateRecord_split (fun q => { q with slots := r.cancelled.slots }) hasTag alone
    have standing : ∀ q ∈ front ++ r.cancelled :: back, q.finished = false := by
      intro q mem
      rcases List.mem_append.mp mem with inFront | inRest
      · exact others q (by rw [is]; exact List.mem_append_left _ inFront) (alone q (List.mem_append_left _ inFront))
      · rcases List.mem_cons.mp inRest with rfl | inBack
        · exact cancelled_standing active
        · exact others q (by rw [is]; exact List.mem_append_right _ (List.mem_cons_of_mem _ inBack))
            (alone q (List.mem_append_right _ inBack))
    rw [table, (anyActive_iff r).mpr active, settleRecords_none standing (by simp)] at own
    rw [table']
    exact serve_replied h rfl own
  · have done : r.anyActive = false := Bool.eq_false_iff.mpr fun active => by
      obtain ⟨st, sl, slot, isActive⟩ := (anyActive_iff r).mp active
      exact still st sl slot isActive
    have endedIs : ended = r.cancelled := by rw [hended, slotsAre]; rfl
    have settled := settleRecords_ended (drained := drained)
      (b :=
        { s.during 0x40#8 rest with
          lists := lists
          track := { s.track with table := updateRecord (field p 0 2) ParticleRecord.cancelled s.track.table } })
      found unique others rfl endedIs (endedIs ▸ cancelled_finished still) hdrained
    rw [done, settled] at own
    exact serve_replied h rfl own

/-! ### AMEND -/

section
variable {p : List Byte} {b : Block} {cls : Nat} {r : ParticleRecord}

theorem ownAmend_class (h : 63 < field p 2 1) : ownAmend p b = refuse .badArg b := if_neg (by omega)

theorem ownAmend_missing (inside : field p 2 1 ≤ 63) (missing : findRecord (field p 0 2) b.track.table = none) :
    ownAmend p b = refuse .notFound b := (if_pos inside).trans (forRecord_none missing)

theorem ownAmend_found (inside : field p 2 1 ≤ 63) (found : findRecord (field p 0 2) b.track.table = some r) :
    ownAmend p b = amendRecord (field p 2 1) r b := (if_pos inside).trans (forRecord_some found)

theorem amendRecord_late
    (h : ∃ st sl, r.slots.get st = some sl ∧ sl.state ≠ .waiting ∧ sl.state ≠ .final .notChosen) :
    amendRecord cls r b = refuse .tooLate b := by
  obtain ⟨st, sl, slot, notWaiting, chosen⟩ := h
  have late : r.amendable = false := Bool.eq_false_iff.mpr fun all =>
    (r.amendable_iff.mp all st sl slot).elim notWaiting chosen
  exact if_pos (by simp [late])

variable (all : ∀ st sl, r.slots.get st = some sl → sl.state = .waiting ∨ sl.state = .final .notChosen)

include all

theorem amendRecord_fails {d : Disposition} (test : routeTest (b.route cls) r.confidence = some d) :
    amendRecord cls r b =
      answer (settleRecords (b.setTable (updateRecord r.tag (ParticleRecord.amendedAway cls) b.track.table)))
        (byte d.code) := by
  have amendable := r.amendable_iff.mpr all
  unfold amendRecord
  rw [if_neg (by simp [amendable]), test]

theorem amendRecord_passes (test : routeTest (b.route cls) r.confidence = none) :
    amendRecord cls r b = answer (settleRecords (rebuildRecord cls (b.route cls) r b)) (byte 0) := by
  have amendable := r.amendable_iff.mpr all
  unfold amendRecord
  rw [if_neg (by simp [amendable]), test]
  rfl

end

/-- The first route test that fails, by the code of its disposition (R28, R49). -/
theorem routeTest_code {e : RouteEntry} {confidence code : Nat}
    (h : (code = 1 ∧ e.hold = true) ∨
      (code = 2 ∧ e.hold = false ∧ ∀ st, e.stations.get st = false) ∨
      (code = 3 ∧ e.hold = false ∧ (∃ st, e.stations.get st = true) ∧ confidence < e.minConfidence)) :
    ∃ d, routeTest e confidence = some d ∧ d.code = code := by
  unfold routeTest
  rcases h with ⟨rfl, hold⟩ | ⟨rfl, free, none_named⟩ | ⟨rfl, free, ⟨st, named⟩, unsure⟩
  · exact ⟨.held, by simp [hold], rfl⟩
  · exact ⟨.passed, by simp [free, (stations_eq_none_iff _).mpr none_named], rfl⟩
  · have some_named : e.stations ≠ Four.all4 false := fun is => by
      rw [is, Four.get_all4] at named
      cases named
    exact ⟨.unsure, by simp [free, some_named, unsure], rfl⟩

theorem amendedAway_finished (cls : Nat) (r : ParticleRecord) : (r.amendedAway cls).finished = true := by
  refine (r.amendedAway cls).finished_iff.mpr fun st sl at_ => ?_
  rw [ParticleRecord.amendedAway, Four.get_map] at at_
  obtain ⟨old, -, rfl⟩ := Option.map_eq_some_iff.mp at_
  exact ⟨_, rfl⟩

theorem rebuildRecord_eq (cls : Nat) (e : RouteEntry) (r : ParticleRecord) (b : Block) :
    rebuildRecord cls e r b =
      commitDueSlots r.tag
        { b with
          ranks := (createSlots b e r.position).2
          track :=
            { b.track with
              table := updateRecord r.tag (ParticleRecord.rebuilt cls e (createSlots b e r.position).1) b.track.table } } :=
  rfl

/-- The slots of a record that every station of the set takes (R36). -/
theorem createSlots_all {b : Block} {e : RouteEntry} {position : Nat} {slots : Four (Option Slot)}
    {slice : StationId → Int} (delivery : e.delivery ≠ .leastLoaded)
    (hslice : ∀ st, slice st =
      (((position + (b.settings.stations.get st).leadDistance) / b.settings.sliceLength : Nat) : Int) -
        (b.settings.stations.get st).horizon)
    (hslots : ∀ st, slots.get st =
      if e.stations.get st = true then some ⟨.waiting, slice st, none, ⟨false, false, false, false, false⟩⟩ else none) :
    createSlots b e position = (slots, b.ranks) := by
  have ranks := createSlots_ranks b e position
  rw [if_neg delivery] at ranks
  refine Prod.ext (Four.ext_get fun st => ?_) ranks
  obtain ⟨-, -, slot⟩ := choiceTakesTheShortestList b e
  rw [slot position st (slice st) (hslice st), hslots st]
  cases e.stations.get st <;> simp [delivery]

/-- A rebuilt record with a slot that waits, among records that are not finished. -/
theorem rebuilt_standing {t : List ParticleRecord} {tag cls : Nat} {e : RouteEntry} {slots : Four (Option Slot)}
    (others : ∀ q ∈ t, q.tag ≠ tag → q.finished = false) {st : StationId} {sl : Slot} (slot : slots.get st = some sl)
    (waits : sl.state = .waiting) : ∀ q ∈ updateRecord tag (ParticleRecord.rebuilt cls e slots) t, q.finished = false := by
  intro q mem
  obtain ⟨old, inTable, rfl⟩ := List.mem_map.mp mem
  by_cases hasTag : old.tag = tag
  · rw [if_pos hasTag]
    refine Bool.eq_false_iff.mpr fun finished => ?_
    obtain ⟨o, final⟩ := (ParticleRecord.finished_iff _).mp finished st sl slot
    exact SlotState.noConfusion (waits.symm.trans final)
  · rw [if_neg hasTag]
    exact others old inTable hasTag

/-- With every new slot waiting for a later crossing the rebuild commits nothing and retires nothing. -/
theorem settleRecords_later {b : Block} {tag cls : Nat} {e : RouteEntry} {r : ParticleRecord}
    {slots : Four (Option Slot)} {t : List ParticleRecord} (found : findRecord tag t = some r)
    (table : b.track.table = updateRecord tag (ParticleRecord.rebuilt cls e slots) t)
    (later : ∀ st sl, slots.get st = some sl → (b.pos.slice : Int) < sl.commitSlice)
    (standing : ∀ q ∈ b.track.table, q.finished = false) : settleRecords (commitDueSlots tag b) = b := by
  have filled : b.track.table ≠ [] := by
    obtain ⟨mem, -⟩ := findRecord_some found
    rw [table]
    exact List.ne_nil_of_mem (List.mem_map_of_mem mem)
  rw [commitDueSlots_none (fun st => ?_) standing, settleRecords_none standing filled]
  have hasTag := (findRecord_some found).2
  have slotIs : findSlot tag st b.track.table = slots.get st := by
    rw [table, findSlot, findRecord_updateRecord (fun q => (rfl : (q.rebuilt cls e slots).tag = q.tag)), found,
      Option.map_some, if_pos hasTag]
    rfl
  rw [dueNow_eq, slotIs]
  cases slot : slots.get st with
  | none => rfl
  | some sl => simpa using fun _ => later st sl slot

/-- Settles O53: AMEND's checks in their order, the end it makes, and the rebuild. -/
theorem amendRebuildsOrEndsTheRecord : Obligations.AmendRebuildsOrEndsTheRecord := by
  unfold Obligations.AmendRebuildsOrEndsTheRecord
  intro s p rest tag cls h past length htag hcls
  subst htag hcls
  rw [exec_amend h past length]
  refine ⟨fun outside => serve_refused h rfl (ownAmend_class outside), fun inside missing =>
    serve_refused h rfl (ownAmend_missing (b := s.during 0x41#8 rest) inside missing), fun r e inside found he => ?_⟩
  subst he
  have hasTag := (findRecord_some found).2
  have own := ownAmend_found (b := s.during 0x41#8 rest) inside found
  refine ⟨fun late => serve_refused h rfl (own.trans (amendRecord_late late)), fun all unique others => ⟨?_, ?_, ?_⟩⟩
  · intro code ended drained fails hended hdrained
    obtain ⟨d, test, hcode⟩ := routeTest_code fails
    have ends := own.trans (amendRecord_fails (b := s.during 0x41#8 rest) all test)
    have settled := settleRecords_ended (drained := drained) (f := ParticleRecord.amendedAway (field p 2 1))
      (b := (s.during 0x41#8 rest).setTable (updateRecord r.tag (ParticleRecord.amendedAway (field p 2 1)) s.track.table))
      found unique others (by rw [hasTag]; rfl) hended (hended ▸ amendedAway_finished _ r) hdrained
    rw [show (s.during 0x41#8 rest).track.table = s.track.table from rfl, settled, hcode] at ends
    exact serve_replied h rfl ends
  · intro hold named confident out hout
    have passes := own.trans (amendRecord_passes (b := s.during 0x41#8 rest) all
      ((routeTest_none_iff _ _).mpr ⟨hold, named, confident⟩))
    have time : out.clock = s.clock := by
      rw [hout]
      exact (drainDone_kept _).clock.trans ((retireFinished_kept _).clock.trans (commitDueSlots_kept _ _).clock)
    have made : settleRecords (rebuildRecord (field p 2 1) (s.toBlock.route (field p 2 1)) r (s.during 0x41#8 rest)) = out := by
      rw [hout, rebuildRecord_eq, hasTag]
      rfl
    rw [← time]
    exact serve_replied h rfl (passes.trans (congrArg (answer · (byte 0)) made))
  · intro slots slice hold named confident delivery hslice later hslots
    have passes := own.trans (amendRecord_passes (b := s.during 0x41#8 rest) all
      ((routeTest_none_iff _ _).mpr ⟨hold, named, confident⟩))
    obtain ⟨st, isNamed⟩ := named
    have first := hslots st
    rw [if_pos isNamed] at first
    have standing := rebuilt_standing (cls := field p 2 1) (e := s.toBlock.route (field p 2 1)) others first rfl
    have waiting : ∀ st sl, slots.get st = some sl → (s.pos.slice : Int) < sl.commitSlice := by
      intro other sl slot
      rw [hslots other] at slot
      split at slot
      next isNamed =>
        cases slot
        exact later other isNamed
      next => cases slot
    have made : settleRecords (rebuildRecord (field p 2 1) (s.toBlock.route (field p 2 1)) r (s.during 0x41#8 rest)) =
        { s.during 0x41#8 rest with
          track :=
            { s.track with
              table := updateRecord (field p 0 2)
                (ParticleRecord.rebuilt (field p 2 1) (s.toBlock.route (field p 2 1)) slots) s.track.table } } := by
      rw [rebuildRecord_eq, hasTag, createSlots_all (b := s.during 0x41#8 rest) delivery hslice hslots]
      exact settleRecords_later found rfl waiting standing
    exact serve_replied h rfl (passes.trans (congrArg (answer · (byte 0)) made))

end Sys2Proof.Machine
end

section
/-! PROOFS. SAVE, RESTORE and LOCK (R171 to R173, R175). -/

namespace Sys2Proof.Machine

/-! ### SAVE and RESTORE -/

section
variable {s : State} {rest : List Frame} (past : s.line.state ≠ .startup) (open_ : EditsOpen s)

include past open_

theorem exec_save (h : Serving s 0x60#8 [] rest) : exec .save s = serve (kindIs 0x60) ownSave s :=
  serve_edit h rfl past open_ rfl _

theorem exec_restore (h : Serving s 0x61#8 [] rest) : exec .restore s = serve (kindIs 0x61) ownRestore s :=
  serve_edit h rfl past open_ rfl _

end

theorem exec_saveEnd {s : State} {copy : Settings} (agrees : Bool) (running : s.resetting = none)
    (saving : s.store.activity = .saving copy) : exec (.saveEnd agrees) s = event s (finishSave agrees) :=
  eventIf_due (by rw [running_of running, saving]; rfl) _ _

theorem exec_restoreEnd {s : State} (running : s.resetting = none) (restoring : s.store.activity = .restoring) :
    exec .restoreEnd s = event s finishRestore :=
  eventIf_due (by rw [running_of running, restoring]; rfl) _ _

theorem finishSave_eq {b : Block} {copy : Settings} (agrees : Bool) (h : b.store.activity = .saving copy) :
    finishSave agrees b =
      if agrees = true then storeDone .save .ok (b.setStore { b.store with image := ⟨true, copy⟩ })
      else storeDone .save .writeFail (b.setStore { b.store with image := { b.store.image with sound := false } }) := by
  unfold finishSave
  rw [h]

theorem ownRestore_refused {b : Block} (h : b.line.state ≠ .standby ∨ ∃ st, (b.stations.get st).state ≠ .disarmed)
    (p : List Byte) : ownRestore p b = refuse .wrongState b :=
  if_pos (h.imp_right fun ⟨st, not⟩ => Bool.eq_false_iff.mpr fun all => not ((allDisarmed_iff b).mp all st))

theorem ownRestore_starts {b : Block} (standby : b.line.state = .standby)
    (disarmed : ∀ st, (b.stations.get st).state = .disarmed) (p : List Byte) :
    ownRestore p b = answer (b.setStore { b.store with activity := .restoring }) [] := by
  have all := (allDisarmed_iff b).mpr disarmed
  exact if_neg (by simp [standby, all])

theorem finishRestore_checkFail {b : Block} (h : b.store.image.sound = false) :
    finishRestore b = storeDone .restore .checkFail b := if_pos (by simp [h])

theorem finishRestore_abandoned {b : Block} (sound : b.store.image.sound = true)
    (h : ∃ st, (b.stations.get st).state ≠ .disarmed) : finishRestore b = storeDone .restore .abandoned b := by
  obtain ⟨st, not⟩ := h
  have some_not : allDisarmed b = false := Bool.eq_false_iff.mpr fun all => not ((allDisarmed_iff b).mp all st)
  unfold finishRestore
  rw [if_neg (by simp [sound]), if_pos (by simp [some_not])]

theorem finishRestore_ok {b : Block} (sound : b.store.image.sound = true)
    (disarmed : ∀ st, (b.stations.get st).state = .disarmed) :
    finishRestore b = storeDone .restore .ok (applyImage b) := by
  have all := (allDisarmed_iff b).mpr disarmed
  unfold finishRestore
  rw [if_neg (by simp [sound]), if_neg (by simp [all])]

/-- The same change at every station. -/
theorem foldl_setStation (f : Station → Station) (b : Block) :
    allStations.foldl (fun acc st => acc.setStation st (f (acc.station st))) b = { b with stations := b.stations.map f } := by
  rfl

theorem foldl_clearChannels (b : Block) :
    allStations.foldl (fun acc st => clearChannels st acc) b =
      { b with stations := b.stations.map fun x => { x with channels := List.replicate 64 Channel.ok } } :=
  foldl_setStation (fun x => { x with channels := List.replicate 64 Channel.ok }) b

/-- What the sound image replaces, block by block. -/
theorem applyImage_eq {b : Block} {new : Settings} (h : new = b.store.image.contents.holdsOff) :
    applyImage b =
      { b with
        settings := new
        pos :=
          { b.pos with
            slice := b.pos.x / new.sliceLength
            reverseFlag :=
              if new.reverseLimit < b.pos.backlash then true
              else if b.pos.backlash = 0 then false else b.pos.reverseFlag }
        stations := b.stations.map fun x => { x with channels := List.replicate 64 ⟨none, none, 0, none⟩ }
        msg := { b.msg with pointer := b.msg.pointer.within new.partition } } := by
  subst h
  exact foldl_clearChannels _

/-- Settles O54: each request and each end by what it writes. -/
theorem saveAndRestoreMoveTheSettings : Obligations.SaveAndRestoreMoveTheSettings := by
  unfold Obligations.SaveAndRestoreMoveTheSettings
  intro s rest off hoff
  refine ⟨fun h open_ past => ?_, fun copy running saving => ⟨?_, ?_⟩, fun h open_ past => ⟨fun standby disarmed => ?_,
    fun other => ?_⟩, fun running restoring => ⟨fun unsound => ?_, fun sound armed => ?_, fun sound disarmed new hnew => ?_⟩⟩
  · rw [exec_save past open_ h, hoff]
    exact serve_replied h rfl (judge := ownSave) rfl
  · rw [exec_saveEnd true running saving, event_next, finishSave_eq (b := s.toBlock) true saving]
    rfl
  · rw [exec_saveEnd false running saving, event_next, finishSave_eq (b := s.toBlock) false saving]
    rfl
  · rw [exec_restore past open_ h]
    exact serve_replied h rfl (ownRestore_starts (b := s.during 0x61#8 rest) standby disarmed [])
  · rw [exec_restore past open_ h]
    exact serve_refused h rfl (ownRestore_refused (b := s.during 0x61#8 rest) other [])
  · rw [exec_restoreEnd running restoring, event_next, finishRestore_checkFail (b := s.toBlock) unsound]
    rfl
  · rw [exec_restoreEnd running restoring, event_next, finishRestore_abandoned (b := s.toBlock) sound armed]
    rfl
  · have image : new = s.store.image.contents.holdsOff := hnew.trans (hoff _)
    rw [exec_restoreEnd running restoring, event_next, finishRestore_ok (b := s.toBlock) sound disarmed,
      applyImage_eq (b := s.toBlock) image]
    rfl

/-! ### LOCK -/

/-- The LOCK order with its own code. -/
theorem lockRequest_own {b : Block} (past : b.line.state ≠ .startup) {v : Byte} {code : Nat} (act : Block → Block)
    (own : v.toNat = code) (open_ : code ≤ 1 → editBarred b = none) :
    lockRequest code act [v] b = answer (act b) [] := by
  unfold lockRequest
  rw [judged_own past rfl (by simpa [field_head, own] using open_)]
  exact if_pos ((field_head v []).trans own)

/-- A LOCK order with a code that names no mode is no edit, and is refused (R182, log 25). -/
theorem lockRequest_refused {b : Block} (past : b.line.state ≠ .startup) {v : Byte} {code : Nat} (act : Block → Block)
    (high : 3 ≤ v.toNat) (low : code ≤ 2) : lockRequest code act [v] b = refuse .badArg b := by
  unfold lockRequest
  rw [judged_own past rfl (by simp [field_head]; omega)]
  exact if_neg (by rw [field_head]; omega)

theorem orderIs_unknown (kind v : Byte) (code : Nat) {orders : Nat} (h : orders ≤ v.toNat) :
    orderIs kind.toNat code orders ⟨kind, [v]⟩ = true := by
  simp [orderIs, kindIs, h]

/-- Settles O55: each order by its code. -/
theorem lockOrdersSetTheMode : Obligations.LockOrdersSetTheMode := by
  unfold Obligations.LockOrdersSetTheMode
  intro s rest code h past
  refine ⟨fun is open_ => ?_, fun is open_ => ?_, fun is => ?_, fun high c mem => ?_⟩
  · subst is
    exact serve_replied h rfl (lockRequest_own (b := s.during 0x62#8 rest) past _ rfl fun _ => editBarred_none open_ _)
  · subst is
    exact serve_replied h rfl (lockRequest_own (b := s.during 0x62#8 rest) past _ rfl fun _ => editBarred_none open_ _)
  · subst is
    exact serve_replied h rfl (lockRequest_own (b := s.during 0x62#8 rest) past _ rfl fun mode => absurd mode (by decide))
  · have mine (order : Nat) : orderIs 0x62 order 3 ⟨0x62#8, [code]⟩ = true := orderIs_unknown 0x62#8 code order high
    simp only [List.mem_cons, List.not_mem_nil, or_false] at mem
    rcases mem with rfl | rfl | rfl
    · exact serve_refused h (mine 0) (lockRequest_refused (b := s.during 0x62#8 rest) (code := 0) past _ high (by decide))
    · exact serve_refused h (mine 1) (lockRequest_refused (b := s.during 0x62#8 rest) (code := 1) past _ high (by decide))
    · exact serve_refused h (mine 2) (lockRequest_refused (b := s.during 0x62#8 rest) (code := 2) past _ high (by decide))

end Sys2Proof.Machine
end

section
/-! PROOFS. The maintenance orders: PURGE and CALIBRATE (R177 to R179). -/

namespace Sys2Proof.Machine

/-! ### The next channel in hand -/

theorem mem_purgeTurns {cycles channels : Nat} {t : Nat × Nat} :
    t ∈ purgeTurns cycles channels ↔ (1 ≤ t.1 ∧ t.1 ≤ cycles) ∧ t.2 < channels := by
  obtain ⟨cycle, ch⟩ := t
  have inCycle : cycle ∈ List.range' 1 cycles ↔ 1 ≤ cycle ∧ cycle ≤ cycles := by
    rw [List.mem_range'_1]
    omega
  simp [purgeTurns, ← inCycle]

section
variable {b : Block} {p : Purge} {cycle channel : Nat}

/-- A cycle with no OK channel left is passed over to the next. -/
theorem nextTurn_wraps (rest : NoneOk b p.station channel) : nextTurn b p cycle channel = nextTurn b p (cycle + 1) 0 := by
  refine List.find?_congr fun t mem => ?_
  obtain ⟨-, inside⟩ := mem_purgeTurns.mp mem
  cases ok : channelOk b p.station t.2 with
  | false => simp
  | true =>
    have early : t.2 < channel := by
      by_contra late
      exact absurd (rest t.2 (by omega) inside) (by simp [ok])
    rw [Bool.eq_iff_iff]
    simp only [Bool.and_true, Bool.or_eq_true, Bool.and_eq_true, decide_eq_true_eq, beq_iff_eq]
    omega

/-- In the last cycle, or with no OK channel at all, no turn is left. -/
theorem nextTurn_none (rest : NoneOk b p.station channel) (last : cycle = p.cycles ∨ NoneOk b p.station 0) :
    nextTurn b p cycle channel = none := by
  refine List.find?_eq_none.mpr fun t mem turn => ?_
  obtain ⟨⟨-, most⟩, inside⟩ := mem_purgeTurns.mp mem
  simp only [Bool.and_eq_true, Bool.or_eq_true, decide_eq_true_eq, beq_iff_eq] at turn
  obtain ⟨order, ok⟩ := turn
  have faulted : channelOk b p.station t.2 = false := by
    rcases last with final | none_ok
    · rcases order with after | ⟨-, late⟩
      · omega
      · exact rest t.2 late inside
    · exact none_ok t.2 (Nat.zero_le _) inside
  rw [ok] at faulted
  cases faulted

variable (mode : Purge → Sequencer)

theorem takeInHand_first {ch : Nat} (low : 1 ≤ cycle) (high : cycle ≤ p.cycles) (first : FirstOk b p.station channel ch) :
    takeInHand mode p cycle channel b =
      b.setMaint (mode { p with cycle := cycle, channel := ch, phase := .waiting }) := by
  unfold takeInHand
  rw [nextTurn_first low high first]

theorem takeInHand_wraps {ch : Nat} (rest : NoneOk b p.station channel) (more : cycle < p.cycles)
    (first : FirstOk b p.station 0 ch) :
    takeInHand mode p cycle channel b =
      b.setMaint (mode { p with cycle := cycle + 1, channel := ch, phase := .waiting }) := by
  unfold takeInHand
  rw [nextTurn_wraps rest, nextTurn_first (by omega) more first]

theorem takeInHand_done (rest : NoneOk b p.station channel) (last : cycle = p.cycles ∨ NoneOk b p.station 0) :
    takeInHand mode p cycle channel b = endPurge .ok p b := by
  unfold takeInHand
  rw [nextTurn_none rest last]

end

/-! ### PURGE start -/

theorem orderIs_head {kind : Byte} {p : List Byte} (code orders : Nat) (h : field p 0 1 = code) (filled : p ≠ []) :
    orderIs kind.toNat code orders ⟨kind, p⟩ = true := by
  cases p with
  | nil => exact absurd rfl filled
  | cons v l =>
    rw [field_head] at h
    simp [orderIs, kindIs, h]

theorem exec_purgeStart {s : State} {p : List Byte} {rest : List Frame} (h : Serving s 0x70#8 p rest)
    (past : s.line.state ≠ .startup) (length : p.length = 7) (order : field p 0 1 = 0) :
    exec .purgeStart s = serve (orderIs 0x70 0 4) ownPurgeStart s :=
  serve_congr h (orderIs_head 0 4 order (List.ne_nil_of_length_pos (by omega)))
    (judged_own (b := s.during 0x70#8 rest) past rfl rfl)

theorem purgeArgsOk_iff (on gap cycles : Nat) :
    purgeArgsOk on gap cycles = true ↔
      (1 ≤ on ∧ on ≤ 500) ∧ (1 ≤ gap ∧ gap ≤ 500) ∧ 1 ≤ cycles ∧ cycles ≤ 16 := by
  simp [purgeArgsOk, and_assoc]

section
variable {p : List Byte} {b : Block} (length : p.length = 7) (order : field p 0 1 = 0)

include length order

theorem ownPurgeStart_station (h : 4 ≤ field p 1 1) : ownPurgeStart p b = refuse .badArg b := by
  unfold ownPurgeStart
  rw [if_pos ⟨length, order⟩, stationOf_none h]

theorem ownPurgeStart_of {st : StationId} (h : field p 1 1 = st.val) :
    ownPurgeStart p b =
      if purgeArgsOk (field p 2 2) (field p 4 2) (field p 6 1) = true then
        startPurge ⟨st, field p 2 2, field p 4 2, field p 6 1, 1, 0, .waiting⟩ b
      else refuse .badArg b := by
  unfold ownPurgeStart
  rw [if_pos ⟨length, order⟩, stationOf_val h]

end

section
variable {b : Block} {p : Purge}

theorem startPurge_busy (h : b.maint ≠ .idle) : startPurge p b = refuse .busy b := if_pos h

theorem startPurge_state (idle : b.maint = .idle)
    (h : b.line.state ≠ .standby ∨ (b.stations.get p.station).state ≠ .armed) :
    startPurge p b = refuse .wrongState b := (if_neg (not_not_intro idle)).trans (if_pos h)

theorem startPurge_starts (idle : b.maint = .idle) (standby : b.line.state = .standby)
    (armed : (b.stations.get p.station).state = .armed) :
    startPurge p b = answer (takeInHand .purging p 1 0 b) [] :=
  (if_neg (not_not_intro idle)).trans (if_neg (by simp [standby, armed, Block.station]))

end

/-! ### The orders to a purge -/

theorem exec_purgeSuspend {s : State} {rest : List Frame} (h : Serving s 0x70#8 [1#8] rest)
    (past : s.line.state ≠ .startup) :
    exec .purgeSuspend s = serve (orderIs 0x70 1 4) (fun _ => orderSuspend) s :=
  serve_congr h rfl (judged_own (b := s.during 0x70#8 rest) past rfl rfl)

theorem exec_purgeResume {s : State} {rest : List Frame} (h : Serving s 0x70#8 [2#8] rest)
    (past : s.line.state ≠ .startup) :
    exec .purgeResume s = serve (orderIs 0x70 2 4) (fun _ => orderResume) s :=
  serve_congr h rfl (judged_own (b := s.during 0x70#8 rest) past rfl rfl)

theorem exec_purgeAbort {s : State} {rest : List Frame} (h : Serving s 0x70#8 [3#8] rest)
    (past : s.line.state ≠ .startup) :
    exec .purgeAbort s = serve (orderIs 0x70 3 4) (fun _ => orderAbort) s :=
  serve_congr h rfl (judged_own (b := s.during 0x70#8 rest) past rfl rfl)

section
variable {b : Block} {q : Purge}

theorem suspendPurge_inHand (h : q.phase = .waiting ∨ ∃ t, q.phase = .shot t) :
    suspendPurge q b = b.setMaint (.suspended { q with phase := .waiting }) := by
  unfold suspendPurge
  rcases h with phase | ⟨t, phase⟩
  · have kept : { q with phase := .waiting } = q := by rw [← phase]
    rw [phase, kept]
  · rw [phase]

theorem suspendPurge_gap {t : Nat} (h : q.phase = .gap t) :
    suspendPurge q b = takeInHand .suspended q q.cycle (q.channel + 1) b := by
  unfold suspendPurge
  rw [h]

theorem orderSuspend_purging (h : b.maint = .purging q) : orderSuspend b = answer (suspendPurge q b) [] := by
  unfold orderSuspend
  rw [h]

theorem orderSuspend_suspended (h : b.maint = .suspended q) : orderSuspend b = answer b [] := by
  unfold orderSuspend
  rw [h]

theorem orderSuspend_refused (h : b.maint = .idle ∨ ∃ c, b.maint = .calibrating c) :
    orderSuspend b = refuse .wrongState b := by
  unfold orderSuspend
  rcases h with is | ⟨c, is⟩ <;> rw [is]

theorem orderResume_suspended (h : b.maint = .suspended q) :
    orderResume b = answer (takeInHand .purging q q.cycle q.channel b) [] := by
  unfold orderResume
  rw [h]

theorem orderResume_purging (h : b.maint = .purging q) : orderResume b = answer b [] := by
  unfold orderResume
  rw [h]

theorem orderResume_refused (h : b.maint = .idle ∨ ∃ c, b.maint = .calibrating c) :
    orderResume b = refuse .wrongState b := by
  unfold orderResume
  rcases h with is | ⟨c, is⟩ <;> rw [is]

theorem orderAbort_ends (h : b.maint = .purging q ∨ b.maint = .suspended q) :
    orderAbort b = answer (endPurge .aborted q b) [] := by
  unfold orderAbort
  rcases h with is | is <;> rw [is]

theorem orderAbort_refused (h : b.maint = .idle ∨ ∃ c, b.maint = .calibrating c) :
    orderAbort b = refuse .wrongState b := by
  unfold orderAbort
  rcases h with is | ⟨c, is⟩ <;> rw [is]

end

/-! ### CALIBRATE -/

theorem exec_calibrate {s : State} {p : List Byte} {rest : List Frame} (h : Serving s 0x71#8 p rest)
    (past : s.line.state ≠ .startup) (length : p.length = 2) :
    exec .calibrate s = serve (kindIs 0x71) (forStation ownCalibrate) s := serve_plain h rfl past length _

section
variable {b : Block} {st : StationId} {p : List Byte}

theorem ownCalibrate_range (h : (b.settings.stations.get st).channels ≤ field p 1 1) :
    ownCalibrate st p b = refuse .badArg b := if_pos h

variable (inside : field p 1 1 < (b.settings.stations.get st).channels)

include inside

theorem ownCalibrate_busy (h : b.maint ≠ .idle) : ownCalibrate st p b = refuse .busy b :=
  (if_neg (Nat.not_le.mpr inside)).trans (if_pos h)

variable (idle : b.maint = .idle)

include idle

theorem ownCalibrate_state
    (h : b.line.state ≠ .standby ∨ (b.stations.get st).state ≠ .armed ∨ channelOk b st (field p 1 1) = false) :
    ownCalibrate st p b = refuse .wrongState b :=
  (if_neg (Nat.not_le.mpr inside)).trans ((if_neg (not_not_intro idle)).trans (if_pos h))

theorem ownCalibrate_starts (standby : b.line.state = .standby) (armed : (b.stations.get st).state = .armed)
    (ok : channelOk b st (field p 1 1) = true) :
    ownCalibrate st p b = answer (b.setMaint (.calibrating ⟨st, field p 1 1, [], none, none⟩)) [] :=
  (if_neg (Nat.not_le.mpr inside)).trans ((if_neg (not_not_intro idle)).trans
    (if_neg (by simp [standby, armed, ok, Block.station])))

end

/-! ### Orders that are judged by the block alone -/

section
variable {s : State} {kind : Byte} {p : List Byte} {rest : List Frame} (h : Serving s kind p rest)
  {mine : Frame → Bool} (hm : mine ⟨kind, p⟩ = true) {act : Block → Block × Option Reply}

include h hm

theorem serve_order_replied {after : Block} {status : Status} {items : List Byte}
    (hj : act (s.during kind rest) = (after, some ⟨status, items⟩)) :
    serve mine (fun _ => act) s =
      .next { s with toBlock := after.setMsg (after.msg.replying after.clock kind status items) } :=
  serve_replied h hm hj

theorem serve_order_refused {status : Status} (hj : act (s.during kind rest) = refuse status (s.during kind rest)) :
    serve mine (fun _ => act) s = .next { s with msg := s.answered kind rest status [] } := serve_refused h hm hj

theorem serve_order_answered {items : List Byte} (hj : act (s.during kind rest) = answer (s.during kind rest) items) :
    serve mine (fun _ => act) s = .next { s with msg := s.answered kind rest .ok items } := serve_answered h hm hj

end

theorem endPurge_idle {b : Block} (idle : b.maint = .idle) (ending : DoneResult) (p : Purge) :
    endPurge ending p b = b.report (.done .purge ending (some p.station) (some (faultedCount b p.station)) 0) := by
  have same : b.setMaint .idle = b := by
    rw [← idle]
    rfl
  rw [endPurge, same]

/-! ### The statement -/

/-- PURGE start on a station is judged by the station and the sequencer once its arguments are good (R177). -/
theorem exec_purgeStart_of {s : State} {p : List Byte} {rest : List Frame} {st : StationId}
    (h : Serving s 0x70#8 p rest) (past : s.line.state ≠ .startup) (length : p.length = 7) (order : field p 0 1 = 0)
    (station : field p 1 1 = st.val) (good : purgeArgsOk (field p 2 2) (field p 4 2) (field p 6 1) = true) :
    exec .purgeStart s =
      serve (orderIs 0x70 0 4)
        (fun _ => startPurge ⟨st, field p 2 2, field p 4 2, field p 6 1, 1, 0, .waiting⟩) s := by
  rw [exec_purgeStart h past length order]
  exact serve_congr h (orderIs_head 0 4 order (List.ne_nil_of_length_pos (by omega)))
    ((ownPurgeStart_of (b := s.during 0x70#8 rest) length order station).trans (if_pos good))

section
variable {s : State} {p : List Byte} {rest : List Frame} (past : s.line.state ≠ .startup)

include past

/-- PURGE start with good arguments: BUSY before WRONG_STATE, then the first OK channel in hand (R177). -/
theorem purgeStart_outcomes {st : StationId} (h : Serving s 0x70#8 p rest) (length : p.length = 7)
    (order : field p 0 1 = 0) (station : field p 1 1 = st.val)
    (good : purgeArgsOk (field p 2 2) (field p 4 2) (field p 6 1) = true) :
    (s.maint ≠ .idle → exec .purgeStart s = .next { s with msg := s.answered 0x70#8 rest .busy [] }) ∧
      (s.maint = .idle → (s.line.state ≠ .standby ∨ (s.stations.get st).state ≠ .armed) →
        exec .purgeStart s = .next { s with msg := s.answered 0x70#8 rest .wrongState [] }) ∧
      (s.maint = .idle → s.line.state = .standby → (s.stations.get st).state = .armed →
        (∀ ch, FirstOk s.toBlock st 0 ch →
          exec .purgeStart s = .next
            { s with
              maint := .purging ⟨st, field p 2 2, field p 4 2, field p 6 1, 1, ch, .waiting⟩
              msg := s.answered 0x70#8 rest .ok [] }) ∧
        (NoneOk s.toBlock st 0 →
          exec .purgeStart s = .next
            { s with
              msg :=
                s.reportedAnd (.done .purge .ok (some st) (some (faultedCount s.toBlock st)) 0) 0x70#8 rest .ok [] })) := by
  have mine := orderIs_head (kind := 0x70#8) 0 4 order (List.ne_nil_of_length_pos (by omega))
  obtain ⟨-, -, cyclesLow, -⟩ := (purgeArgsOk_iff _ _ _).mp good
  rw [exec_purgeStart_of h past length order station good]
  refine ⟨fun busy => ?_, fun idle state => ?_, fun idle standby armed => ?_⟩
  · exact serve_order_refused h mine (startPurge_busy (b := s.during 0x70#8 rest) busy)
  · exact serve_order_refused h mine (startPurge_state (b := s.during 0x70#8 rest) idle state)
  · have starts := startPurge_starts (b := s.during 0x70#8 rest)
      (p := ⟨st, field p 2 2, field p 4 2, field p 6 1, 1, 0, .waiting⟩) idle standby armed
    refine ⟨fun ch first => ?_, fun none_ok => ?_⟩
    · rw [takeInHand_first (b := s.during 0x70#8 rest)
        (p := ⟨st, field p 2 2, field p 4 2, field p 6 1, 1, 0, .waiting⟩) _ (Nat.le_refl 1) cyclesLow first] at starts
      exact serve_order_replied h mine starts
    · rw [takeInHand_done (b := s.during 0x70#8 rest)
        (p := ⟨st, field p 2 2, field p 4 2, field p 6 1, 1, 0, .waiting⟩) _ none_ok (.inr none_ok),
        endPurge_idle (b := s.during 0x70#8 rest) idle] at starts
      exact serve_order_replied h mine starts

/-- CALIBRATE of a channel in range: BUSY before WRONG_STATE, then the run (R179). -/
theorem calibrate_outcomes {st : StationId} (h : Serving s 0x71#8 p rest) (length : p.length = 2)
    (station : field p 0 1 = st.val) (inside : field p 1 1 < (s.settings.stations.get st).channels) :
    (s.maint ≠ .idle → exec .calibrate s = .next { s with msg := s.answered 0x71#8 rest .busy [] }) ∧
      (s.maint = .idle →
        (s.line.state ≠ .standby ∨ (s.stations.get st).state ≠ .armed ∨
          channelOk s.toBlock st (field p 1 1) = false) →
        exec .calibrate s = .next { s with msg := s.answered 0x71#8 rest .wrongState [] }) ∧
      (s.maint = .idle → s.line.state = .standby → (s.stations.get st).state = .armed →
        channelOk s.toBlock st (field p 1 1) = true →
        exec .calibrate s = .next
          { s with
            maint := .calibrating ⟨st, field p 1 1, [], none, none⟩
            msg := s.answered 0x71#8 rest .ok [] }) := by
  rw [exec_calibrate h past length]
  refine ⟨fun busy => ?_, fun idle state => ?_, fun idle standby armed ok => ?_⟩
  · exact serve_refused h rfl ((forStation_of station _).trans
      (ownCalibrate_busy (b := s.during 0x71#8 rest) inside busy))
  · exact serve_refused h rfl ((forStation_of station _).trans
      (ownCalibrate_state (b := s.during 0x71#8 rest) inside idle state))
  · exact serve_replied h rfl ((forStation_of station _).trans
      (ownCalibrate_starts (b := s.during 0x71#8 rest) inside idle standby armed ok))

end

/-- An order that takes the next channel from one on in hand, for a purge in one of its cycles (R177, R178). -/
theorem serve_takesInHand {s : State} {kind : Byte} {p : List Byte} {rest : List Frame} (h : Serving s kind p rest)
    {mine : Frame → Bool} (hm : mine ⟨kind, p⟩ = true) {act : Block → Block × Option Reply} {mode : Purge → Sequencer}
    {q : Purge} {channel : Nat}
    (own : act (s.during kind rest) = answer (takeInHand mode q q.cycle channel (s.during kind rest)) [])
    (low : 1 ≤ q.cycle) (high : q.cycle ≤ q.cycles) :
    (∀ ch, FirstOk s.toBlock q.station channel ch →
      serve mine (fun _ => act) s = .next
        { s with maint := mode { q with channel := ch, phase := .waiting }, msg := s.answered kind rest .ok [] }) ∧
      (NoneOk s.toBlock q.station channel →
        (∀ ch, q.cycle < q.cycles → FirstOk s.toBlock q.station 0 ch →
          serve mine (fun _ => act) s = .next
            { s with
              maint := mode { q with cycle := q.cycle + 1, channel := ch, phase := .waiting }
              msg := s.answered kind rest .ok [] }) ∧
        ((q.cycle = q.cycles ∨ NoneOk s.toBlock q.station 0) →
          serve mine (fun _ => act) s = .next
            { s with
              maint := .idle
              msg :=
                s.reportedAnd (.done .purge .ok (some q.station) (some (faultedCount s.toBlock q.station)) 0) kind rest
                  .ok [] })) := by
  refine ⟨fun ch first => ?_, fun none_left => ⟨fun ch more first => ?_, fun last => ?_⟩⟩
  · rw [takeInHand_first (b := s.during kind rest) _ low high first] at own
    exact serve_order_replied h hm own
  · rw [takeInHand_wraps (b := s.during kind rest) _ none_left more first] at own
    exact serve_order_replied h hm own
  · rw [takeInHand_done (b := s.during kind rest) _ none_left last] at own
    exact serve_order_replied h hm own

/-- Settles O56: each order by the state of the sequencer. -/
theorem maintenanceOrdersMoveTheSequencer : Obligations.MaintenanceOrdersMoveTheSequencer := by
  unfold Obligations.MaintenanceOrdersMoveTheSequencer
  intro s p rest past
  refine ⟨fun h length order noStation => ?_, fun st on gap cycles h length order station hon hgap hcycles => ⟨?_, ?_⟩,
    fun h => ?_, fun h => ?_, fun h => ?_, fun h length noStation => ?_, fun st ch h length station hch => ⟨?_, ?_⟩⟩
  · have mine := orderIs_head (kind := 0x70#8) 0 4 order (List.ne_nil_of_length_pos (by omega))
    rw [exec_purgeStart h past length order]
    exact serve_refused h mine (ownPurgeStart_station length order noStation)
  · intro bad
    subst hon hgap hcycles
    have mine := orderIs_head (kind := 0x70#8) 0 4 order (List.ne_nil_of_length_pos (by omega))
    rw [exec_purgeStart h past length order]
    exact serve_refused h mine ((ownPurgeStart_of length order station).trans
      (if_neg (by rw [purgeArgsOk_iff]; omega)))
  · intro onLow onHigh gapLow gapHigh cyclesLow cyclesHigh
    subst hon hgap hcycles
    exact purgeStart_outcomes past h length order station ((purgeArgsOk_iff _ _ _).mpr (by omega))
  · rw [exec_purgeSuspend h past]
    refine ⟨fun q purging inHand => ?_, fun q t purging phase => ?_, fun q suspended => ?_, fun none_runs => ?_⟩
    · exact serve_order_replied h rfl ((orderSuspend_purging (b := s.during 0x70#8 rest) purging).trans
        (congrArg (answer · []) (suspendPurge_inHand inHand)))
    · exact serve_takesInHand h rfl ((orderSuspend_purging (b := s.during 0x70#8 rest) purging).trans
        (congrArg (answer · []) (suspendPurge_gap phase)))
    · exact serve_order_answered h rfl (orderSuspend_suspended (b := s.during 0x70#8 rest) suspended)
    · exact serve_order_refused h rfl (orderSuspend_refused (b := s.during 0x70#8 rest) none_runs)
  · rw [exec_purgeResume h past]
    refine ⟨fun q suspended => ?_, fun q purging => ?_, fun none_runs => ?_⟩
    · exact serve_takesInHand h rfl (orderResume_suspended (b := s.during 0x70#8 rest) suspended)
    · exact serve_order_answered h rfl (orderResume_purging (b := s.during 0x70#8 rest) purging)
    · exact serve_order_refused h rfl (orderResume_refused (b := s.during 0x70#8 rest) none_runs)
  · rw [exec_purgeAbort h past]
    refine ⟨fun q runs => ?_, fun none_runs => ?_⟩
    · exact serve_order_replied h rfl (orderAbort_ends (b := s.during 0x70#8 rest) runs)
    · exact serve_order_refused h rfl (orderAbort_refused (b := s.during 0x70#8 rest) none_runs)
  · rw [exec_calibrate h past length]
    exact serve_refused h rfl (forStation_none noStation _)
  · intro outside
    subst hch
    rw [exec_calibrate h past length]
    exact serve_refused h rfl ((forStation_of station _).trans (ownCalibrate_range (b := s.during 0x71#8 rest) outside))
  · intro inside
    subst hch
    exact calibrate_outcomes past h length station inside

end Sys2Proof.Machine
end

section
/-! PROOFS. How a purge and a calibration run to their ends (R117, R177, R179, R180). -/

namespace Sys2Proof.Machine

/-! ### The times of a purge -/

section
variable {s : State} {q : Purge} {t : Nat} (running : s.resetting = none) (purging : s.maint = .purging q)

include running purging

theorem exec_purgeShotEnd (phase : q.phase = .shot t) (passed : t + q.onTime * 1000 ≤ s.clock) :
    exec .purgeShotEnd s =
      .next { s with maint := .purging { q with phase := .gap s.clock }, msg := s.settledMsg } := by
  have due : shotDone s.toBlock = some q := by
    unfold shotDone
    rw [purging]
    dsimp only
    rw [phase]
    exact if_pos (reached_iff.mpr passed)
  have ends : endShot s.toBlock = s.toBlock.setMaint (.purging { q with phase := .gap s.clock }) := by
    unfold endShot
    rw [due]
  show eventIf _ s endShot = _
  rw [eventIf_due (by rw [running_of running, due]; rfl), event_next, ends]
  rfl

theorem exec_purgeGapEnd (phase : q.phase = .gap t) (passed : t + q.gap * 1000 ≤ s.clock) {out : Block}
    (next : takeInHand .purging q q.cycle (q.channel + 1) s.toBlock = out) :
    exec .purgeGapEnd s = .next { s with toBlock := out.setMsg (startSending out.clock out.msg) } := by
  have due : gapDone s.toBlock = some q := by
    unfold gapDone
    rw [purging]
    dsimp only
    rw [phase]
    exact if_pos (reached_iff.mpr passed)
  have ends : endGap s.toBlock = out := by
    unfold endGap
    rw [due]
    exact next
  show eventIf _ s endGap = _
  rw [eventIf_due (by rw [running_of running, due]; rfl), event_next, ends]

end

/-! ### The shots a refresh begins -/

/-- The shot's channel with its confirm timer, started where it was idle (R117). -/
theorem updateChannel_startConfirm (st : StationId) (ch : Nat) (b : Block) :
    updateChannel st ch (Channel.startConfirm b.clock) b =
      { b with
        stations :=
          b.stations.set st
            { b.stations.get st with
              channels :=
                (b.stations.get st).channels.mapIdx fun i c =>
                  if i = ch ∧ c.confirm = none then { c with confirm := some b.clock } else c } } := by
  rw [updateChannel_eq, modifyAt_eq_mapIdx]
  simp only [startConfirm_eq, ite_and]

section
variable {b : Block}

theorem beginShots_purge {p : Purge} (purging : b.maint = .purging p) (waits : p.phase = .waiting) :
    beginShots b =
      updateChannel p.station p.channel (Channel.startConfirm b.clock)
        (b.setMaint (.purging { p with phase := .shot b.clock })) := by
  unfold beginShots
  rw [purging]
  dsimp only
  rw [waits]

theorem beginShots_purge_not {p : Purge} (purging : b.maint = .purging p) (not : p.phase ≠ .waiting) :
    beginShots b = b := by
  unfold beginShots
  rw [purging]
  dsimp only
  cases phase : p.phase with
  | waiting => exact absurd phase not
  | shot t => rfl
  | gap t => rfl

theorem beginShots_calibration {c : Calibration} (calibrating : b.maint = .calibrating c) :
    beginShots b =
      if c.shotDue b = true then
        updateChannel c.station c.channel (Channel.startConfirm b.clock)
          (b.setMaint (.calibrating { c with lastStart := some b.clock, shot := some b.clock }))
      else b := by
  unfold beginShots
  rw [calibrating]

theorem beginShots_rest (h : b.maint = .idle ∨ ∃ p, b.maint = .suspended p) : beginShots b = b := by
  unfold beginShots
  rcases h with is | ⟨p, is⟩ <;> rw [is]

theorem shotDue_iff (c : Calibration) :
    c.shotDue b = true ↔ c.shot = none ∧ ∀ t, c.lastStart = some t → t + 100000 ≤ b.clock := by
  unfold Calibration.shotDue
  rw [Bool.and_eq_true, Option.isNone_iff_eq_none]
  refine and_congr_right fun _ => ?_
  cases c.lastStart with
  | none => simp
  | some t => simp [reached_iff, Config.calibrationSpacing]

end

/-! ### The feedback of a calibration shot, and the latency -/

theorem shotDelay_eq (start now : Nat) : shotDelay start now = (now - start + 99) / 100 * 100 := rfl

theorem ceilDiv_eight (n : Nat) : ceilDiv n 8 = (n + 7) / 8 := rfl

section
variable {b : Block} {c d : Calibration} {start : Nat}

theorem calibrationStep_shot (calibrating : b.maint = .calibrating d) (shot : c.shot = some start)
    (on : b.chain.feedback.getD ((b.config c.station).firstOutput + c.channel) false = true) :
    calibrationStep (.calibrating c) b =
      if (c.delays ++ [shotDelay start b.clock]).length < 8 then
        b.setMaint (.calibrating { c with delays := c.delays ++ [shotDelay start b.clock], shot := none })
      else finishCalibration c (c.delays ++ [shotDelay start b.clock]) b := by
  unfold calibrationStep
  rw [calibrating]
  dsimp only
  rw [shot]
  exact if_pos on

end

/-- Without feedback on a shot that was in progress a refresh takes nothing from a calibration (R179, log 24). -/
theorem calibrationStep_none {before : Sequencer} {b : Block}
    (h : ∀ c d start, before = .calibrating c → b.maint = .calibrating d → c.shot = some start →
      b.chain.feedback.getD ((b.config c.station).firstOutput + c.channel) false = false) :
    calibrationStep before b = b := by
  unfold calibrationStep
  split
  next c d calibrating =>
    split
    next => rfl
    next start shot => exact if_neg (by rw [h c d start rfl calibrating shot]; decide)
  next => rfl

theorem finishCalibration_written {c : Calibration} {delays : List Nat} (b : Block)
    (fits : (delays.sum + 7) / 8 ≤ 262143) :
    finishCalibration c delays b =
      { b with
        settings :=
          { b.settings with
            stations :=
              b.settings.stations.set c.station
                { b.settings.stations.get c.station with latency := (delays.sum + 7) / 8 } }
        maint := .idle
        msg := offerReport (.done .calibrate .ok (some c.station) (some c.channel) ((delays.sum + 7) / 8)) b.msg } :=
  if_pos fits

theorem finishCalibration_outOfRange {c : Calibration} {delays : List Nat} (b : Block)
    (beyond : 262143 < (delays.sum + 7) / 8) :
    finishCalibration c delays b =
      { b with
        maint := .idle
        msg := offerReport (.done .calibrate .outOfRange (some c.station) (some c.channel) 0) b.msg } :=
  if_neg (Nat.not_le.mpr beyond)

/-- Settles O57: the two times, the shots a refresh begins, its step of a calibration, and the latency it makes. -/
theorem maintenanceRunsToItsEnd : Obligations.MaintenanceRunsToItsEnd := by
  unfold Obligations.MaintenanceRunsToItsEnd
  refine ⟨fun s q running purging => ⟨fun t phase passed => exec_purgeShotEnd running purging phase passed,
    fun t phase passed low high => ⟨fun ch first => ?_, fun ch none_left more first => ?_, fun none_left last => ?_⟩⟩,
    fun b started hstarted => ⟨fun p purging => ⟨fun waits => ?_, beginShots_purge_not purging⟩,
      fun c calibrating => ⟨fun noShot spaced => ?_, fun not => ?_⟩, beginShots_rest⟩,
    fun before b => ⟨?_, calibrationStep_none⟩, ?_⟩
  · exact exec_purgeGapEnd running purging phase passed (takeInHand_first _ low high first)
  · exact exec_purgeGapEnd running purging phase passed (takeInHand_wraps _ none_left more first)
  · exact exec_purgeGapEnd running purging phase passed (takeInHand_done _ none_left last)
  · rw [beginShots_purge purging waits, hstarted]
    exact updateChannel_startConfirm p.station p.channel (b.setMaint _)
  · rw [beginShots_calibration calibrating, if_pos ((shotDue_iff c).mpr ⟨noShot, spaced⟩), hstarted]
    exact updateChannel_startConfirm c.station c.channel (b.setMaint _)
  · rw [beginShots_calibration calibrating]
    refine if_neg fun due => ?_
    obtain ⟨noShot, spaced⟩ := (shotDue_iff c).mp due
    rcases not with shot | ⟨t, last, early⟩
    · exact shot noShot
    · exact absurd (spaced t last) (Nat.not_le.mpr early)
  · intro c d start delays hbefore calibrating shot on hdelays
    subst hbefore hdelays
    rw [calibrationStep_shot calibrating shot on, shotDelay_eq]
    exact ⟨fun few => if_pos few, fun eight => if_neg (Nat.not_lt.mpr eight)⟩
  · intro b c delays mean hmean
    subst hmean
    exact ⟨finishCalibration_written b, finishCalibration_outOfRange b⟩

end Sys2Proof.Machine
end

section
/-! PROOFS. CLEAR_FAULT and RESTART, the causes of a reset and its end (R144 to R148, R170, R176). -/

namespace Sys2Proof.Machine

/-! ### CLEAR FAULT and RESTART -/

section
variable {s : State} {rest : List Frame} (past : s.line.state ≠ .startup)

include past

theorem exec_clearFault (h : Serving s 0x80#8 [] rest) :
    exec .clearFault s = serve (kindIs 0x80) ownClearFault s := serve_plain h rfl past rfl _

theorem exec_restart (h : Serving s 0x81#8 [] rest) : exec .restart s = serve (kindIs 0x81) ownRestart s :=
  serve_plain h rfl past rfl _

end

/-- A request that is taken in hand is answered later: its judgement, with no reply yet. -/
theorem serve_takenInHand {s : State} {kind : Byte} {p : List Byte} {rest : List Frame} (h : Serving s kind p rest)
    {mine : Frame → Bool} (hm : mine ⟨kind, p⟩ = true) {judge : List Byte → Block → Block × Option Reply} {after : Block}
    (hj : judge p (s.during kind rest) = (after, none)) :
    serve mine judge s = .next { s with toBlock := after.setMsg (startSending after.clock after.msg) } := by
  have judged : serveHead judge s.toBlock = after := by
    simp only [serveHead, h.head]
    simp only [State.during, MessageUnit.serving] at hj
    simp [hj]
  rw [serve_next h hm, event_next, judged]

theorem ownClearFault_refused {b : Block} (h : b.line.state ≠ .fault ∨ b.line.halt.taken = true) (p : List Byte) :
    ownClearFault p b = refuse .wrongState b := if_pos h

theorem ownClearFault_taken {b : Block} (fault : b.line.state = .fault) (halt : b.line.halt.taken = false) (p : List Byte) :
    ownClearFault p b =
      ((b.setChain { b.chain with census := true }).setLine { b.line with haltInCensus := false }, none) :=
  if_neg (by simp [fault, halt])

theorem ownRestart_ok {b : Block} (h : ∀ copy, b.store.activity ≠ .saving copy) (p : List Byte) :
    ownRestart p b = answer b [] := by
  unfold ownRestart
  cases activity : b.store.activity with
  | saving copy => exact absurd activity (h copy)
  | idle => rfl
  | restoring => rfl

theorem ownRestart_busy {b : Block} {copy : Settings} (h : b.store.activity = .saving copy) (p : List Byte) :
    ownRestart p b = refuse .busy b := by
  unfold ownRestart
  rw [h]

/-- Settles O58: CLEAR_FAULT's and RESTART's own checks, and the mark of RESTART's reply. -/
theorem recoveryRequestsAreTakenInHand : Obligations.RecoveryRequestsAreTakenInHand := by
  unfold Obligations.RecoveryRequestsAreTakenInHand
  intro s rest past
  refine ⟨fun h => ⟨fun fault halt => ?_, fun bars => ?_⟩, fun h => ⟨fun free => ?_, fun copy saving => ?_⟩,
    fun m => ⟨_, rfl, rfl⟩⟩
  · rw [exec_clearFault past h]
    exact serve_takenInHand h rfl (ownClearFault_taken (b := s.during 0x80#8 rest) fault halt [])
  · rw [exec_clearFault past h]
    exact serve_refused h rfl (ownClearFault_refused (b := s.during 0x80#8 rest) bars [])
  · rw [exec_restart past h]
    exact serve_answered h rfl (ownRestart_ok (b := s.during 0x81#8 rest) free [])
  · rw [exec_restart past h]
    exact serve_refused h rfl (ownRestart_busy (b := s.during 0x81#8 rest) saving [])

/-! ### The causes of a reset -/

theorem isSaving_iff (a : StoreActivity) : a.isSaving = true ↔ ∃ copy, a = .saving copy := by
  cases a <;> simp [StoreActivity.isSaving]

theorem recordAfter_supply {cause : ResetCause} (h : cause.bySupply = true) (b : Block) :
    recordAfter cause b = newRecord cause b := if_pos (by rw [h, Bool.or_true])

theorem recordAfter_begins {b : Block} (running : b.resetting = none) (cause : ResetCause) :
    recordAfter cause b = newRecord cause b := if_pos (by rw [running_of running, Bool.true_or])

theorem recordAfter_line {b : Block} {progress : ResetProgress} (resetting : b.resetting = some progress) :
    recordAfter .resetLine b = b.line.record := by
  have not_running : b.running = false := by
    rw [Block.running, resetting]
    rfl
  exact if_neg (by rw [not_running]; decide)

/-- A cause of a reset that arrives as an event: nothing is left to send (R145, R148). -/
theorem resetBegun_event {s t : State} (cause : ResetCause) (line : Bool)
    (h : t.toBlock = (beginReset cause s.toBlock).setResetLine line) :
    ResetBegun s t (recordAfter cause s.toBlock) (copyAfter cause s.store.lockCopy) (progressAfter cause s.toBlock) :=
  resetBegun_of_toBlock (m := s.msg) h

theorem exec_resetLineAssert {s : State} (h : s.resetLine = false) :
    exec .resetLineAssert s =
      .next { s with toBlock := (beginReset .resetLine s.toBlock).setResetLine true } := by
  show eventIf _ s _ = _
  rw [eventIf_due (by rw [h]; rfl)]
  rfl

/-- Settles O59: each cause by the start of its reset. -/
theorem resetCausesBlankTheBlocks : Obligations.ResetCausesBlankTheBlocks := by
  unfold Obligations.ResetCausesBlankTheBlocks
  intro s
  refine ⟨⟨_, rfl, rfl, ?_⟩, ⟨_, rfl, rfl, ?_⟩, fun saving hsaving low running => ⟨_, exec_resetLineAssert low, rfl, ?_⟩,
    fun progress low resetting => ⟨_, exec_resetLineAssert low, rfl, ?_⟩⟩
  · have begun := resetBegun_event (s := s)
      (t := { s with toBlock := beginReset .powerOn s.toBlock }) .powerOn s.resetLine rfl
    rw [recordAfter_supply rfl] at begun
    exact begun
  · have begun := resetBegun_event (s := s)
      (t := { s with toBlock := beginReset .supplyDip s.toBlock }) .supplyDip s.resetLine rfl
    rw [recordAfter_supply rfl] at begun
    exact begun
  · have savingIs : s.store.activity.isSaving = saving :=
      Bool.eq_iff_iff.mpr ((isSaving_iff _).trans hsaving.symm)
    have progressIs : progressAfter .resetLine s.toBlock = ⟨s.clock, false, true, false, none⟩ := by
      unfold progressAfter
      rw [running]
      rfl
    have begun := resetBegun_event (s := s)
      (t := { s with toBlock := (beginReset .resetLine s.toBlock).setResetLine true }) .resetLine true rfl
    rw [recordAfter_begins running, progressIs, newRecord, savingIs] at begun
    exact begun
  · have progressIs : progressAfter .resetLine s.toBlock = { progress with byLine := true } := by
      unfold progressAfter
      rw [resetting]
      rfl
    have begun := resetBegun_event (s := s)
      (t := { s with toBlock := (beginReset .resetLine s.toBlock).setResetLine true }) .resetLine true rfl
    rw [recordAfter_line resetting, progressIs] at begun
    exact begun

/-! ### The end of a reset -/

theorem over_iff (p : ResetProgress) (b : Block) :
    p.over b = true ↔
      (p.bySupply = true → ∃ t, p.supplyAbove = some t ∧ t + 10000 ≤ b.clock) ∧
        (p.byLine = true → b.resetLine = false ∧ p.began + 100 ≤ b.clock) ∧
        (p.byRestart = true → p.began + 100 ≤ b.clock) := by
  have cause (c holds : Bool) : (!c || holds) = true ↔ (c = true → holds = true) := by cases c <;> simp
  unfold ResetProgress.over
  rw [Bool.and_eq_true, Bool.and_eq_true, cause, cause, cause, and_assoc, Bool.and_eq_true, Bool.not_eq_true',
    reached_iff]
  refine and_congr (imp_congr_right fun _ => ?_) Iff.rfl
  cases p.supplyAbove with
  | none => simp
  | some t => simp [reached_iff, Config.supplyStand]

theorem resetOver_eq {b : Block} {p : ResetProgress} (h : b.resetting = some p) : resetOver b = p.over b := by
  unfold resetOver
  rw [h]

/-- Settles O60: the release and the rise as they stand, and RESET_END by the causes that have arrived. -/
theorem resetEndsWhenEveryCauseDoes : Obligations.ResetEndsWhenEveryCauseDoes := by
  unfold Obligations.ResetEndsWhenEveryCauseDoes
  intro s
  refine ⟨rfl, fun progress resetting => ⟨fun supply below => ?_, fun supply line restart => ?_, fun lasts => ?_⟩⟩
  · have rises : progress.supplyRises s.clock = { progress with supplyAbove := some s.clock } :=
      if_pos (by rw [supply, below]; rfl)
    have row : exec .supplyRisesAboveResetThreshold s =
        .next
          { s with
            resetting := s.resetting.map (ResetProgress.supplyRises s.clock)
            msg := s.settledMsg } := rfl
    rw [row, resetting, Option.map_some, rises]
  · have ends : resetOver s.toBlock = true := (resetOver_eq resetting).trans ((over_iff _ _).mpr ⟨supply, line, restart⟩)
    exact eventIf_due ends s finishReset
  · have stands : resetOver s.toBlock = false := by
      rw [resetOver_eq resetting]
      refine Bool.eq_false_iff.mpr fun ends => ?_
      obtain ⟨supply, line, restart⟩ := (over_iff _ _).mp ends
      rcases lasts with ⟨bySupply, early⟩ | ⟨byLine, held | early⟩ | ⟨byRestart, early⟩
      · obtain ⟨t, above, stood⟩ := supply bySupply
        exact absurd stood (Nat.not_le.mpr (early t above))
      · exact absurd held (by simp [(line byLine).1])
      · exact absurd (line byLine).2 (Nat.not_le.mpr early)
      · exact absurd (restart byRestart) (Nat.not_le.mpr early)
    exact eventIf_undue stands s finishReset

end Sys2Proof.Machine
end
